-- ==== Sys2Proof/Word.lean ====
section
/-! DEFINITION. The bit-vector types of the block (00_scope.md R12): every value is an unsigned number of a fixed width. -/

namespace Sys2Proof

/-- u8: a register, a memory byte, an immediate NN. -/
abbrev Byte := BitVec 8

/-- u16: an instruction word, I, pc, a stack entry, the key vector. -/
abbrev Word := BitVec 16

/-- u4: a register index X or Y, a nibble N. -/
abbrev Nibble := BitVec 4

/-- u12: an address field NNN. -/
abbrev Addr := BitVec 12

end Sys2Proof
end

