-- ==== Sys2Proof/Config.lean ====
section
/-! DEFINITION. The block's fixed sizes that the source document itself states (00_scope.md R7), and the one free value:
the random byte of CXNN. The values that rest on general knowledge stand in Machine/Layout.lean. -/

namespace Sys2Proof.Config

/-- MEM_SIZE (R7, R70): addresses 0x000..0xFFF. -/
def memSize : Nat := 0x1000

/-- STACK_DEPTH (R7, R39). -/
def stackDepth : Nat := 16

/-- FB_W (R7, R240). -/
def fbWidth : Nat := 64

/-- FB_H (R7, R240). -/
def fbHeight : Nat := 32

/-- The byte `r` of a `Step(r)` whose byte the host does not name (00_scope.md R9, 42_alu.md R182: "The block places no
law on `r`"). A free value: nothing in Lean can evaluate it. DESIGN CHOICE, safe (log 3). -/
opaque randomByte : Nat → Byte

end Sys2Proof.Config
end

