-- ==== Sys2Proof/Machine/Flags.lean ====
section
/-! DEFINITION. The arithmetic results and the values written to VF (42_alu.md R170): computed exactly, then reduced modulo 256. -/

namespace Sys2Proof.Machine

/-- A flag as the byte 0 or 1 written to VF. -/
def flagByte (c : Bool) : Byte := if c then 0x01#8 else 0x00#8

/-- `(a + b) mod 256` (R172, R177). -/
def sumByte (a b : Byte) : Byte := BitVec.ofNat 8 (a.toNat + b.toNat)

/-- The carry: the exact sum is 256 or more (R177). -/
def carry (a b : Byte) : Bool := decide (a.toNat + b.toNat ≥ 256)

/-- `(a - b) mod 256`, the difference computed as an integer (R178, R180). -/
def differenceByte (minuend subtrahend : Byte) : Byte := BitVec.ofInt 8 ((minuend.toNat : Int) - (subtrahend.toNat : Int))

/-- The not-borrow: minuend ≥ subtrahend (R178, R180, C10). -/
def notBorrow (minuend subtrahend : Byte) : Bool := decide (minuend.toNat ≥ subtrahend.toNat)

/-- `a >> 1` (R179). -/
def shiftedRight (a : Byte) : Byte := a >>> 1

/-- The bit a right shift moves out: `a AND 0x01` (R179). -/
def bitOutRight (a : Byte) : Byte := a &&& 0x01#8

/-- `(a << 1) mod 256` (R181). -/
def shiftedLeft (a : Byte) : Byte := a <<< 1

/-- The bit a left shift moves out: `(a >> 7) AND 0x01` (R181). -/
def bitOutLeft (a : Byte) : Byte := (a >>> 7) &&& 0x01#8

end Sys2Proof.Machine
end

