-- ==== Sys2Proof/Syntax.lean ====
section
/-! DEFINITION. The 35 instructions of 30_encoding.md R106, one constructor per row of spec/opcode_table.json, with the operand
fields of R102. UNKNOWN words (R108) are no instruction of the table: the decoder rejects them by name. -/

namespace Sys2Proof

/-- The tagged variant of 30_encoding.md R104. `x`, `y` are register indices, `nn` a byte, `n` a nibble, `nnn` an address.
`shr` and `shl` keep the Y field, which they ignore (R179, R181), so that no bit of their words is dropped. -/
inductive Instr where
  /-- 0NNN, R130 -/
  | sys (nnn : Addr)
  /-- 00E0, R250 -/
  | cls
  /-- 00EE, R131 -/
  | ret
  /-- 1NNN, R132 -/
  | jp (nnn : Addr)
  /-- 2NNN, R133 -/
  | call (nnn : Addr)
  /-- 3XNN, R151 -/
  | seImm (x : Nibble) (nn : Byte)
  /-- 4XNN, R152 -/
  | sneImm (x : Nibble) (nn : Byte)
  /-- 5XY0, R153 -/
  | seReg (x y : Nibble)
  /-- 6XNN, R171 -/
  | ldImm (x : Nibble) (nn : Byte)
  /-- 7XNN, R172 -/
  | addImm (x : Nibble) (nn : Byte)
  /-- 8XY0, R173 -/
  | ldReg (x y : Nibble)
  /-- 8XY1, R174 -/
  | orReg (x y : Nibble)
  /-- 8XY2, R175 -/
  | andReg (x y : Nibble)
  /-- 8XY3, R176 -/
  | xorReg (x y : Nibble)
  /-- 8XY4, R177 -/
  | addReg (x y : Nibble)
  /-- 8XY5, R178 -/
  | sub (x y : Nibble)
  /-- 8XY6, R179 -/
  | shr (x y : Nibble)
  /-- 8XY7, R180 -/
  | subn (x y : Nibble)
  /-- 8XYE, R181 -/
  | shl (x y : Nibble)
  /-- 9XY0, R154 -/
  | sneReg (x y : Nibble)
  /-- ANNN, R210 -/
  | ldI (nnn : Addr)
  /-- BNNN, R134 -/
  | jpV0 (nnn : Addr)
  /-- CXNN, R182 -/
  | rnd (x : Nibble) (nn : Byte)
  /-- DXYN, R252 -/
  | drw (x y n : Nibble)
  /-- EX9E, R155 -/
  | skp (x : Nibble)
  /-- EXA1, R156 -/
  | sknp (x : Nibble)
  /-- FX07, R270 -/
  | ldVxDt (x : Nibble)
  /-- FX0A, R290 -/
  | ldVxK (x : Nibble)
  /-- FX15, R271 -/
  | ldDtVx (x : Nibble)
  /-- FX18, R272 -/
  | ldStVx (x : Nibble)
  /-- FX1E, R212 -/
  | addI (x : Nibble)
  /-- FX29, R214 -/
  | ldF (x : Nibble)
  /-- FX33, R216 -/
  | ldB (x : Nibble)
  /-- FX55, R218 -/
  | ldMemVx (x : Nibble)
  /-- FX65, R220 -/
  | ldVxMem (x : Nibble)
  deriving DecidableEq, Repr

end Sys2Proof
end

