-- ==== Sys2Proof/Decode.lean ====
section
/-! DEFINITION. Decoding (30_encoding.md R101 to R110) and, after it, the encoder written from the same patterns (R106), and the
opcode map itself as data. -/

namespace Sys2Proof

/-! ### The fields of a word (R102) -/

/-- F = w[15:12]. -/
def fieldF (w : Word) : Nibble := w.extractLsb' 12 4
/-- X = w[11:8]. -/
def fieldX (w : Word) : Nibble := w.extractLsb' 8 4
/-- Y = w[7:4]. -/
def fieldY (w : Word) : Nibble := w.extractLsb' 4 4
/-- N = w[3:0]. -/
def fieldN (w : Word) : Nibble := w.extractLsb' 0 4
/-- NN = w[7:0]. -/
def fieldNN (w : Word) : Byte := w.extractLsb' 0 8
/-- NNN = w[11:0]. -/
def fieldNNN (w : Word) : Addr := w.extractLsb' 0 12

/-! ### Decoding -/

/-- Why a word is UNKNOWN (R108): the family whose sub-selector list lacks the word's sub-selector. -/
inductive Unknown where
  /-- 5XYN with N ≠ 0 -/
  | family5
  /-- 8XYN with N in 8, 9, A, B, C, D, F -/
  | family8
  /-- 9XYN with N ≠ 0 -/
  | family9
  /-- EXNN with NN neither 9E nor A1 -/
  | familyE
  /-- FXNN with NN not one of the nine listed values -/
  | familyF
  deriving DecidableEq, Repr

/-- Family 0: the whole word is the sub-selector (R104, R107). -/
def decode0 (w : Word) : Except Unknown Instr :=
  if w = 0x00E0#16 then .ok .cls
  else if w = 0x00EE#16 then .ok .ret
  else .ok (.sys (fieldNNN w))

/-- Family 8: N is the sub-selector (R104). -/
def decode8 (x y n : Nibble) : Except Unknown Instr :=
  match n.toNat with
  | 0x0 => .ok (.ldReg x y)
  | 0x1 => .ok (.orReg x y)
  | 0x2 => .ok (.andReg x y)
  | 0x3 => .ok (.xorReg x y)
  | 0x4 => .ok (.addReg x y)
  | 0x5 => .ok (.sub x y)
  | 0x6 => .ok (.shr x y)
  | 0x7 => .ok (.subn x y)
  | 0xE => .ok (.shl x y)
  | _ => .error .family8

/-- Family E: NN is the sub-selector (R104). -/
def decodeE (x : Nibble) (nn : Byte) : Except Unknown Instr :=
  if nn = 0x9E#8 then .ok (.skp x)
  else if nn = 0xA1#8 then .ok (.sknp x)
  else .error .familyE

/-- Family F: NN is the sub-selector (R104). -/
def decodeF (x : Nibble) (nn : Byte) : Except Unknown Instr :=
  if nn = 0x07#8 then .ok (.ldVxDt x)
  else if nn = 0x0A#8 then .ok (.ldVxK x)
  else if nn = 0x15#8 then .ok (.ldDtVx x)
  else if nn = 0x18#8 then .ok (.ldStVx x)
  else if nn = 0x1E#8 then .ok (.addI x)
  else if nn = 0x29#8 then .ok (.ldF x)
  else if nn = 0x33#8 then .ok (.ldB x)
  else if nn = 0x55#8 then .ok (.ldMemVx x)
  else if nn = 0x65#8 then .ok (.ldVxMem x)
  else .error .familyF

/-- `Decode(w)` (R104): total, of the word alone, the full family field first and then the precise sub-selector. The last
arm is family F: the field has 4 bits. -/
def decode (w : Word) : Except Unknown Instr :=
  match (fieldF w).toNat with
  | 0x0 => decode0 w
  | 0x1 => .ok (.jp (fieldNNN w))
  | 0x2 => .ok (.call (fieldNNN w))
  | 0x3 => .ok (.seImm (fieldX w) (fieldNN w))
  | 0x4 => .ok (.sneImm (fieldX w) (fieldNN w))
  | 0x5 => if fieldN w = 0x0#4 then .ok (.seReg (fieldX w) (fieldY w)) else .error .family5
  | 0x6 => .ok (.ldImm (fieldX w) (fieldNN w))
  | 0x7 => .ok (.addImm (fieldX w) (fieldNN w))
  | 0x8 => decode8 (fieldX w) (fieldY w) (fieldN w)
  | 0x9 => if fieldN w = 0x0#4 then .ok (.sneReg (fieldX w) (fieldY w)) else .error .family9
  | 0xA => .ok (.ldI (fieldNNN w))
  | 0xB => .ok (.jpV0 (fieldNNN w))
  | 0xC => .ok (.rnd (fieldX w) (fieldNN w))
  | 0xD => .ok (.drw (fieldX w) (fieldY w) (fieldN w))
  | 0xE => decodeE (fieldX w) (fieldNN w)
  | _ => decodeF (fieldX w) (fieldNN w)

/-- The word of two consecutive bytes, the high byte at the lower address (20_memory.md R76, R77). -/
def wordOfBytes (hi lo : Byte) : Word := (hi.zeroExtend 16 <<< 8) ||| lo.zeroExtend 16

/-- Why bytes hold no instruction. -/
inductive Reject where
  /-- fewer than the two bytes of an instruction (R101) -/
  | truncated
  /-- the word is UNKNOWN (R108) -/
  | unknown (why : Unknown)
  deriving DecidableEq, Repr

/-- Decoding on any bytes: the instruction of the first two, with the bytes after it (R101). -/
def decodeBytes : List Byte → Except Reject (Instr × List Byte)
  | hi :: lo :: rest =>
    match decode (wordOfBytes hi lo) with
    | .ok i => .ok (i, rest)
    | .error why => .error (.unknown why)
  | [_] => .error .truncated
  | [] => .error .truncated

/-! ### Encoding (R103, R106) -/

/-- Formats A: `FFFF nnnn nnnn nnnn`. -/
def formatA (f : Nibble) (nnn : Addr) : Word := f ++ nnn
/-- Format XNN (and X, where the byte is the sub-selector): `FFFF xxxx kkkk kkkk`. -/
def formatXNN (f x : Nibble) (nn : Byte) : Word := f ++ x ++ nn
/-- Formats XY and XYN: `FFFF xxxx yyyy nnnn`. -/
def formatXYN (f x y n : Nibble) : Word := f ++ x ++ y ++ n

/-- The word of an instruction (R106). On `sys 0x0E0` and `sys 0x0EE`, which are not well-formed, it gives the words of
CLS and RET. -/
def encode : Instr → Word
  | .sys nnn => formatA 0x0#4 nnn
  | .cls => 0x00E0#16
  | .ret => 0x00EE#16
  | .jp nnn => formatA 0x1#4 nnn
  | .call nnn => formatA 0x2#4 nnn
  | .seImm x nn => formatXNN 0x3#4 x nn
  | .sneImm x nn => formatXNN 0x4#4 x nn
  | .seReg x y => formatXYN 0x5#4 x y 0x0#4
  | .ldImm x nn => formatXNN 0x6#4 x nn
  | .addImm x nn => formatXNN 0x7#4 x nn
  | .ldReg x y => formatXYN 0x8#4 x y 0x0#4
  | .orReg x y => formatXYN 0x8#4 x y 0x1#4
  | .andReg x y => formatXYN 0x8#4 x y 0x2#4
  | .xorReg x y => formatXYN 0x8#4 x y 0x3#4
  | .addReg x y => formatXYN 0x8#4 x y 0x4#4
  | .sub x y => formatXYN 0x8#4 x y 0x5#4
  | .shr x y => formatXYN 0x8#4 x y 0x6#4
  | .subn x y => formatXYN 0x8#4 x y 0x7#4
  | .shl x y => formatXYN 0x8#4 x y 0xE#4
  | .sneReg x y => formatXYN 0x9#4 x y 0x0#4
  | .ldI nnn => formatA 0xA#4 nnn
  | .jpV0 nnn => formatA 0xB#4 nnn
  | .rnd x nn => formatXNN 0xC#4 x nn
  | .drw x y n => formatXYN 0xD#4 x y n
  | .skp x => formatXNN 0xE#4 x 0x9E#8
  | .sknp x => formatXNN 0xE#4 x 0xA1#8
  | .ldVxDt x => formatXNN 0xF#4 x 0x07#8
  | .ldVxK x => formatXNN 0xF#4 x 0x0A#8
  | .ldDtVx x => formatXNN 0xF#4 x 0x15#8
  | .ldStVx x => formatXNN 0xF#4 x 0x18#8
  | .addI x => formatXNN 0xF#4 x 0x1E#8
  | .ldF x => formatXNN 0xF#4 x 0x29#8
  | .ldB x => formatXNN 0xF#4 x 0x33#8
  | .ldMemVx x => formatXNN 0xF#4 x 0x55#8
  | .ldVxMem x => formatXNN 0xF#4 x 0x65#8

/-- The bytes of a word in memory order (R76). -/
def bytesOfWord (w : Word) : List Byte := [w.extractLsb' 8 8, w.extractLsb' 0 8]

/-- The bytes of an instruction in memory order (R101). -/
def encodeBytes (i : Instr) : List Byte := bytesOfWord (encode i)

/-! ### The host's reading of the opcode table -/

/-- The instruction read from an instruction of `nbits` bits numbered as spec/opcode_table.json numbers them: one 16-bit
word, laid out in memory order and given to the decoder. Bits above `nbits` are 0. -/
def decodeTableWord (nbits w : Nat) : Option Instr :=
  match decodeBytes (bytesOfWord (BitVec.ofNat 16 (w % 2 ^ nbits))) with
  | .ok (i, _) => some i
  | .error _ => none

/-! ### The opcode map as data (R106) -/

/-- A row of the opcode map: the fixed bits of an encoding, and the exact words it leaves to other rows. -/
structure OpcodeRow where
  /-- the row's mnemonic in spec/opcode_table.json -/
  mnemonic : String
  /-- which bits are fixed -/
  mask : Word
  /-- the value of the fixed bits -/
  value : Word
  /-- words that belong to another row although the pattern fits them (R107) -/
  excludes : List Word
  deriving DecidableEq, Repr

/-- Whether a word belongs to a row (R106, R107). -/
def OpcodeRow.fits (r : OpcodeRow) (w : Word) : Bool := (w &&& r.mask) == r.value && !(r.excludes.contains w)

/-- Families 0 to 7 of the opcode map. -/
def opcodeRows0to7 : List OpcodeRow :=
  [⟨"SYS", 0xF000#16, 0x0000#16, [0x00E0#16, 0x00EE#16]⟩, ⟨"CLS", 0xFFFF#16, 0x00E0#16, []⟩,
   ⟨"RET", 0xFFFF#16, 0x00EE#16, []⟩, ⟨"JP", 0xF000#16, 0x1000#16, []⟩, ⟨"CALL", 0xF000#16, 0x2000#16, []⟩,
   ⟨"SE_imm", 0xF000#16, 0x3000#16, []⟩, ⟨"SNE_imm", 0xF000#16, 0x4000#16, []⟩, ⟨"SE_reg", 0xF00F#16, 0x5000#16, []⟩,
   ⟨"LD_imm", 0xF000#16, 0x6000#16, []⟩, ⟨"ADD_imm", 0xF000#16, 0x7000#16, []⟩]

/-- Families 8 to D of the opcode map. -/
def opcodeRows8toD : List OpcodeRow :=
  [⟨"LD_reg", 0xF00F#16, 0x8000#16, []⟩, ⟨"OR", 0xF00F#16, 0x8001#16, []⟩, ⟨"AND", 0xF00F#16, 0x8002#16, []⟩,
   ⟨"XOR", 0xF00F#16, 0x8003#16, []⟩, ⟨"ADD_reg", 0xF00F#16, 0x8004#16, []⟩, ⟨"SUB", 0xF00F#16, 0x8005#16, []⟩,
   ⟨"SHR", 0xF00F#16, 0x8006#16, []⟩, ⟨"SUBN", 0xF00F#16, 0x8007#16, []⟩, ⟨"SHL", 0xF00F#16, 0x800E#16, []⟩,
   ⟨"SNE_reg", 0xF00F#16, 0x9000#16, []⟩, ⟨"LD_I", 0xF000#16, 0xA000#16, []⟩, ⟨"JP_V0", 0xF000#16, 0xB000#16, []⟩,
   ⟨"RND", 0xF000#16, 0xC000#16, []⟩, ⟨"DRW", 0xF000#16, 0xD000#16, []⟩]

/-- Families E and F of the opcode map. -/
def opcodeRowsEtoF : List OpcodeRow :=
  [⟨"SKP", 0xF0FF#16, 0xE09E#16, []⟩, ⟨"SKNP", 0xF0FF#16, 0xE0A1#16, []⟩, ⟨"LD_Vx_DT", 0xF0FF#16, 0xF007#16, []⟩,
   ⟨"LD_Vx_K", 0xF0FF#16, 0xF00A#16, []⟩, ⟨"LD_DT_Vx", 0xF0FF#16, 0xF015#16, []⟩, ⟨"LD_ST_Vx", 0xF0FF#16, 0xF018#16, []⟩,
   ⟨"ADD_I", 0xF0FF#16, 0xF01E#16, []⟩, ⟨"LD_F", 0xF0FF#16, 0xF029#16, []⟩, ⟨"LD_B", 0xF0FF#16, 0xF033#16, []⟩,
   ⟨"LD_MEM_Vx", 0xF0FF#16, 0xF055#16, []⟩, ⟨"LD_Vx_MEM", 0xF0FF#16, 0xF065#16, []⟩]

/-- The opcode map of R106: the mask and match of each instruction rule. -/
def opcodeRows : List OpcodeRow := opcodeRows0to7 ++ opcodeRows8toD ++ opcodeRowsEtoF

/-- The row an instruction belongs to, by the table's name. -/
def Instr.mnemonic : Instr → String
  | .sys _ => "SYS"
  | .cls => "CLS"
  | .ret => "RET"
  | .jp _ => "JP"
  | .call _ => "CALL"
  | .seImm _ _ => "SE_imm"
  | .sneImm _ _ => "SNE_imm"
  | .seReg _ _ => "SE_reg"
  | .ldImm _ _ => "LD_imm"
  | .addImm _ _ => "ADD_imm"
  | .ldReg _ _ => "LD_reg"
  | .orReg _ _ => "OR"
  | .andReg _ _ => "AND"
  | .xorReg _ _ => "XOR"
  | .addReg _ _ => "ADD_reg"
  | .sub _ _ => "SUB"
  | .shr _ _ => "SHR"
  | .subn _ _ => "SUBN"
  | .shl _ _ => "SHL"
  | .sneReg _ _ => "SNE_reg"
  | .ldI _ => "LD_I"
  | .jpV0 _ => "JP_V0"
  | .rnd _ _ => "RND"
  | .drw _ _ _ => "DRW"
  | .skp _ => "SKP"
  | .sknp _ => "SKNP"
  | .ldVxDt _ => "LD_Vx_DT"
  | .ldVxK _ => "LD_Vx_K"
  | .ldDtVx _ => "LD_DT_Vx"
  | .ldStVx _ => "LD_ST_Vx"
  | .addI _ => "ADD_I"
  | .ldF _ => "LD_F"
  | .ldB _ => "LD_B"
  | .ldMemVx _ => "LD_MEM_Vx"
  | .ldVxMem _ => "LD_Vx_MEM"

end Sys2Proof
end

