-- ==== Sys2Proof/Machine/Layout.lean ====
section
/-! DEFINITION. The address map and the font table (20_memory.md R71, R90). The spec marks the values as general
knowledge (D2, D3; 93_implementation_defined.md G2, G3), so they stand here, apart from Config. -/

namespace Sys2Proof.Machine

/-- PROGRAM_BASE (R7, R71, D2): the first address of the program/work area. UNVERIFIED: general knowledge of the spec (log 6). -/
def programBase : Nat := 0x200

/-- PROGRAM_CAPACITY (R7, R82): 3584 bytes. -/
def programCapacity : Nat := Config.memSize - programBase

/-- FONT_BASE (R7, D3). UNVERIFIED: general knowledge of the spec (log 6). -/
def fontBase : Nat := 0x000

/-- FONT_SIZE (R7, R90): 16 glyphs of 5 bytes. -/
def fontSize : Nat := 80

/-- The glyphs of digits 0 to 7, five bytes each, top row first (R90). -/
def fontGlyphs0to7 : List Byte :=
  [0xF0, 0x90, 0x90, 0x90, 0xF0,   0x20, 0x60, 0x20, 0x20, 0x70,   0xF0, 0x10, 0xF0, 0x80, 0xF0,   0xF0, 0x10, 0xF0, 0x10, 0xF0,
   0x90, 0x90, 0xF0, 0x10, 0x10,   0xF0, 0x80, 0xF0, 0x10, 0xF0,   0xF0, 0x80, 0xF0, 0x90, 0xF0,   0xF0, 0x10, 0x20, 0x40, 0x40]

/-- The glyphs of digits 8 to F (R90). -/
def fontGlyphs8toF : List Byte :=
  [0xF0, 0x90, 0xF0, 0x90, 0xF0,   0xF0, 0x90, 0xF0, 0x10, 0xF0,   0xF0, 0x90, 0xF0, 0x90, 0x90,   0xE0, 0x90, 0xE0, 0x90, 0xE0,
   0xF0, 0x80, 0x80, 0x80, 0xF0,   0xE0, 0x90, 0x90, 0x90, 0xE0,   0xF0, 0x80, 0xF0, 0x80, 0xF0,   0xF0, 0x80, 0xF0, 0x80, 0x80]

/-- FONT (R90, R340): the 80 bytes at FONT_BASE. UNVERIFIED: general knowledge of the spec (log 6). -/
def fontTable : List Byte := fontGlyphs0to7 ++ fontGlyphs8toF

/-- Whether an address lies in FONT_BASE..FONT_BASE+79 (R71, R72). -/
def isFontAddr (a : Nat) : Bool := decide (fontBase ≤ a) && decide (a < fontBase + fontSize)

/-- Whether an address exists (R70). -/
def isMemAddr (a : Nat) : Bool := decide (a < Config.memSize)

end Sys2Proof.Machine
end

