-- ==== Sys2Proof/Machine/State.lean ====
section
/-! DEFINITION. The state of the block (10_state.md), as plain data, and its reset (70_reset_and_hazards.md R340). The last four
fields are the model's own: they hold the inputs and the outputs of transactions (logs 1, 2, 3). -/

namespace Sys2Proof.Machine

/-! ### How the machine stops -/

/-- The reasons a step stops the machine without a next state. There is none: every abnormal outcome of this block (a fatal
condition, a diagnostic, a host error) has an effect the spec describes and is a next state (60_exceptions.md R305, R310, R320,
R321; log 7). Having no constructor, the type says that no step faults. -/
inductive Fault where
  deriving DecidableEq, Repr

/-- The reasons for which an instruction has no meaning. -/
inductive Refusal where
  /-- Raised only by an arm of exec whose instruction is not modelled yet (none is left); safe: nothing is claimed of it. -/
  | notModelled (mnemonic : String)
  deriving DecidableEq, Repr

/-! ### Codes and results (60_exceptions.md R302, 00_scope.md R11) -/

/-- The codes of class Fatal (R302). -/
inductive FatalCode where
  /-- 0x01: CALL with sp = 16 -/
  | stackOverflow
  /-- 0x02: RET with sp = 0 -/
  | stackUnderflow
  /-- 0x03: DXYN, FX33, FX55, FX65 with a byte address above 0xFFF -/
  | memOutOfRange
  /-- 0x04: fetch outside the program/work area -/
  | pcOutOfRange
  /-- 0x05: FX33, FX55 writing the font table -/
  | protectedWrite
  /-- 0x06: EX9E, EXA1, FX29 with V[X] above 0x0F -/
  | indexOutOfRange
  /-- 0x07: FX1E with I + V[X] above 0xFFF -/
  | iRegOutOfRange
  deriving DecidableEq, Repr

/-- The codes of class Diag (R302). -/
inductive DiagCode where
  /-- 0x10: any UNKNOWN word -/
  | unknownInstruction
  /-- 0x11: SYS 0NNN -/
  | unimplementedSys
  deriving DecidableEq, Repr

/-- The codes of class HostError (R302). -/
inductive HostErrorCode where
  /-- 0x20: LoadProgram of more than 3584 bytes -/
  | programTooLarge
  /-- 0x21: Step in UNLOADED -/
  | notLoaded
  /-- 0x22: LoadProgram when run_state is not UNLOADED -/
  | alreadyLoaded
  /-- 0x23: Step in FAULTED -/
  | faulted
  deriving DecidableEq, Repr

/-- The result of a `Step` (R11): exactly one of these. -/
inductive StepResult where
  /-- the instruction completed, or the block is waiting for a key -/
  | ok
  /-- a recoverable decode defect was reported -/
  | diag (code : DiagCode) (word : Word) (pc : Word)
  /-- a fatal condition was raised; no word for PcOutOfRange (R302) -/
  | fatal (code : FatalCode) (word : Option Word) (pc : Word)
  /-- `Step` was invoked in a state that does not accept it -/
  | hostError (code : HostErrorCode)
  deriving DecidableEq, Repr

/-- The framebuffer `fb[x][y]`: 64 columns of 32 pixels (R44, R240). -/
abbrev Framebuffer := Vector (Vector Bool 32) 64

/-- What the latest transaction answered to the host (R9). -/
inductive Response where
  /-- no output: before any transaction, and after Reset and SetKey -/
  | silent
  /-- the result of a Step (R11) -/
  | step (result : StepResult)
  /-- LoadProgram succeeded (R82) -/
  | loadOk
  /-- LoadProgram failed (R82) -/
  | loadFailed (code : HostErrorCode)
  /-- the pulse of a Tick (R280) -/
  | pulse (on : Bool)
  /-- the grid of a Snapshot (R245) -/
  | grid (fb : Framebuffer)
  /-- the bit of a ConsumeChanged (R246) -/
  | changedBit (b : Bool)
  deriving DecidableEq, Repr

/-- A transaction of the host (00_scope.md R9). -/
inductive Transaction where
  /-- R340 -/
  | reset
  /-- R82 -/
  | loadProgram (bytes : List Byte)
  /-- R100, with the random byte named -/
  | step (r : Byte)
  /-- R280 -/
  | tick
  /-- R285 -/
  | setKey (k : Nibble) (pressed : Bool)
  /-- R245 -/
  | snapshot
  /-- R246 -/
  | consumeChanged
  deriving DecidableEq, Repr

/-! ### The parts of the state -/

/-- `run_state` (R48). -/
inductive RunState where
  /-- reset, no program loaded yet -/
  | unloaded
  /-- executing normally -/
  | running
  /-- the key-wait instruction is suspended -/
  | awaitKey
  /-- a fatal condition was raised -/
  | faulted
  deriving DecidableEq, Repr

/-- The record {code, word, pc} of a fatal condition (R50, R310). -/
structure FaultRecord where
  /-- which condition -/
  code : FatalCode
  /-- the instruction word; none for PcOutOfRange -/
  word : Option Word
  /-- the address A -/
  pc : Word
  deriving DecidableEq, Repr

/-- Memory (R70) as the bytes that differ from the reset contents, in the canonical form `Memory.Wf` of Machine/Ops.lean. -/
abbrev Memory := List Host.Cell

/-- Everything the block holds (10_state.md section 1), and the model's own four fields. -/
structure State where
  /-- V0..VF (R30) -/
  v : Vector Byte 16
  /-- the index register I (R34) -/
  i : Word
  /-- the program counter (R35) -/
  pc : Word
  /-- the call stack's entries (R39) -/
  stack : Vector Word 16
  /-- the number of entries held, 0..16 (R39) -/
  sp : Fin 17
  /-- the delay timer DT (R43) -/
  dt : Byte
  /-- the sound timer ST (R43) -/
  st : Byte
  /-- the framebuffer (R44) -/
  fb : Framebuffer
  /-- the changed latch (R45) -/
  changed : Bool
  /-- memory (R70) -/
  mem : Memory
  /-- the input latch, bit k for key k (R46) -/
  keys : Word
  /-- run_state (R48) -/
  runState : RunState
  /-- wait_x (R49) -/
  waitX : Nibble
  /-- wait_prev (R49) -/
  waitPrev : Word
  /-- the fault record, or none (R50) -/
  fault : Option FaultRecord
  /-- MODEL's own: the output of the latest transaction (R11; log 1) -/
  response : Response
  /-- MODEL's own: the host's transactions before the next free Step, oldest first (R9, R316; log 2) -/
  pending : List Transaction
  /-- MODEL's own: the byte r of the Step being performed when the host names it (R9; log 3) -/
  randomIn : Option Byte
  /-- MODEL's own: which free random byte comes next (R182; log 3) -/
  draws : Nat
  deriving DecidableEq, Repr

/-- An all-dark framebuffer (R44, R244). -/
def darkFramebuffer : Framebuffer := Vector.replicate 64 (Vector.replicate 32 false)

/-- The machine right after `Reset` (R340), before any transaction: nothing pending. Memory lists nothing: an unlisted
address reads as its reset contents (R83). -/
def State.reset : State where
  v := Vector.replicate 16 0x00#8
  i := 0x0000#16
  pc := BitVec.ofNat 16 programBase
  stack := Vector.replicate 16 0x0000#16
  sp := 0
  dt := 0x00#8
  st := 0x00#8
  fb := darkFramebuffer
  changed := false
  mem := []
  keys := 0x0000#16
  runState := .unloaded
  waitX := 0x0#4
  waitPrev := 0x0000#16
  fault := none
  response := .silent
  pending := []
  randomIn := none
  draws := 0

end Sys2Proof.Machine
end

