-- ==== Sys2Proof/Machine/Ops.lean ====
section
/-! DEFINITION. The operations every meaning is built from: memory and its canonical form, registers, the pc, the call stack, and
the abnormal outcomes (a fatal condition, a diagnostic, a host error), each written once. -/

namespace Sys2Proof.Machine

/-! ### Memory (20_memory.md) -/

/-- What an unlisted address reads as: the reset contents, the font table and 0x00 elsewhere (R83). -/
def unlistedByte (a : Nat) : Byte := if isFontAddr a then fontTable.getD (a - fontBase) 0x00#8 else 0x00#8

namespace Memory

/-- The byte at an address (R73), for an address that exists: callers check the range first. -/
def read : Memory → Nat → Byte
  | [], a => unlistedByte a
  | (c, b) :: m, a => if c = a then b else read m a

/-- List a byte at its place among rising addresses. -/
def insert (a : Nat) (b : Byte) : Memory → Memory
  | [] => [(a, b)]
  | (c, d) :: m => if a < c then (a, b) :: (c, d) :: m else if a = c then (a, b) :: m else (c, d) :: insert a b m

/-- Unlist an address. -/
def erase (a : Nat) (m : Memory) : Memory := m.filter fun c => c.1 != a

/-- `mem[addr] <- v` (R74): a byte equal to the unlisted one is not listed, so that equal memories are equal data. -/
def write (m : Memory) (a : Nat) (b : Byte) : Memory := if b = unlistedByte a then erase a m else insert a b m

/-- The canonical form: rising addresses, every address exists, no entry equal to the unlisted byte. -/
abbrev Wf (m : Memory) : Prop :=
  List.Pairwise (fun c d : Host.Cell => c.1 < d.1) m ∧ ∀ c ∈ m, isMemAddr c.1 = true ∧ c.2 ≠ unlistedByte c.1

/-- The bytes at `base`, `base + 1`, …, `base + n - 1` (R75). -/
def readRange (m : Memory) (base n : Nat) : List Byte := (List.range n).map fun k => m.read (base + k)

/-- Bytes written one at a time at `base`, `base + 1`, … (R75). -/
def writeRange (m : Memory) (base : Nat) : List Byte → Memory
  | [] => m
  | b :: bs => writeRange (m.write base b) (base + 1) bs

end Memory

/-- The addresses of a range, computed exactly (R75). -/
def addresses (base n : Nat) : List Nat := (List.range n).map fun k => base + k

/-- The check of a range to read (R73, R215 step 3): the fatal condition it raises, or none. -/
def checkRead (base n : Nat) : Option FatalCode :=
  if (addresses base n).any (fun a => !isMemAddr a) then some .memOutOfRange else none

/-- The check of a range to write (R74, R215 steps 1 and 2): MemOutOfRange, then ProtectedWrite. -/
def checkWrite (base n : Nat) : Option FatalCode :=
  if (addresses base n).any (fun a => !isMemAddr a) then some .memOutOfRange
  else if (addresses base n).any isFontAddr then some .protectedWrite
  else none

/-! ### Codes (60_exceptions.md R302) -/

/-- The number of a code of class Fatal (R302). -/
def FatalCode.number : FatalCode → Byte
  | .stackOverflow => 0x01#8
  | .stackUnderflow => 0x02#8
  | .memOutOfRange => 0x03#8
  | .pcOutOfRange => 0x04#8
  | .protectedWrite => 0x05#8
  | .indexOutOfRange => 0x06#8
  | .iRegOutOfRange => 0x07#8

/-- The number of a code of class Diag (R302). -/
def DiagCode.number : DiagCode → Byte
  | .unknownInstruction => 0x10#8
  | .unimplementedSys => 0x11#8

/-- The number of a code of class HostError (R302). -/
def HostErrorCode.number : HostErrorCode → Byte
  | .programTooLarge => 0x20#8
  | .notLoaded => 0x21#8
  | .alreadyLoaded => 0x22#8
  | .faulted => 0x23#8

namespace State

/-! ### Registers (10_state.md) -/

/-- `V[x]` (R13, R30). -/
def reg (s : State) (x : Nibble) : Byte := s.v[x.toNat]'x.isLt

/-- `V[x] <- b` (R13, R30). -/
def setReg (s : State) (x : Nibble) (b : Byte) : State := { s with v := s.v.set x.toNat b x.isLt }

/-- `VF <- b`: the flag register is V[15] (R32). -/
def setFlag (s : State) (b : Byte) : State := s.setReg 0xF#4 b

/-- `I <- a` (R34). -/
def setIndex (s : State) (a : Word) : State := { s with i := a }

/-- `DT <- b` (R43). -/
def setDelay (s : State) (b : Byte) : State := { s with dt := b }

/-- `ST <- b` (R43). -/
def setSound (s : State) (b : Byte) : State := { s with st := b }

/-- Memory replaced by a written one (R74). -/
def setMem (s : State) (m : Memory) : State := { s with mem := m }

/-- Framebuffer and changed latch replaced (R44, R45). -/
def setDisplay (s : State) (fb : Framebuffer) (changed : Bool) : State := { s with fb := fb, changed := changed }

/-- The bytes `V[0]`, …, `V[x]` (R218). -/
def regsUpTo (s : State) (x : Nibble) : List Byte := (List.range (x.toNat + 1)).map fun k => s.reg (BitVec.ofNat 4 k)

/-- `V[k] <- t[0]`, `V[k+1] <- t[1]`, … (R220). -/
def setRegsFrom (s : State) (k : Nat) : List Byte → State
  | [] => s
  | b :: bs => setRegsFrom (s.setReg (BitVec.ofNat 4 k) b) (k + 1) bs

/-- Bit `k` of the input latch (R46). -/
def keyPressed (s : State) (k : Nibble) : Bool := s.keys.getLsbD k.toNat

/-! ### The end of an instruction (R35, R113) -/

/-- The instruction sets the pc and its Step answers Ok. -/
def finish (s : State) (target : Word) : State := { s with pc := target, response := .step .ok }

/-- `pc <- A + 2` (R35). -/
def advance (s : State) : State := s.finish (s.pc + 2#16)

/-- The general skip rule (41_skips.md R150). -/
def skipIf (s : State) (c : Bool) : State := s.finish (if c then s.pc + 4#16 else s.pc + 2#16)

/-! ### Abnormal outcomes (60_exceptions.md) -/

/-- TAKING A FATAL CONDITION (R310): the record is written, the block is FAULTED, and nothing else changes (R311). -/
def raiseFatal (s : State) (code : FatalCode) (word : Option Word) : State :=
  { s with fault := some ⟨code, word, s.pc⟩, runState := .faulted, response := .step (.fatal code word s.pc) }

/-- Reporting a diagnostic (R305): the only effect is `pc <- A + 2`. -/
def reportDiag (s : State) (code : DiagCode) (word : Word) : State :=
  { s with pc := s.pc + 2#16, response := .step (.diag code word s.pc) }

/-- A host error of a Step (R320, R321): no state changes. -/
def hostError (s : State) (code : HostErrorCode) : State := { s with response := .step (.hostError code) }

/-- Executing an UNKNOWN word (R306). -/
def execUnknown (s : State) (word : Word) : State := s.reportDiag .unknownInstruction word

/-! ### The call stack (10_state.md R40, R41) -/

/-- `push(v)`. -/
def push (s : State) (a : Word) : Except FatalCode State :=
  if h : s.sp.val < 16 then .ok { s with stack := s.stack.set s.sp.val a h, sp := ⟨s.sp.val + 1, by omega⟩ }
  else .error .stackOverflow

/-- `pop()`: the entry keeps its value. -/
def pop (s : State) : Except FatalCode (Word × State) :=
  if h : s.sp.val = 0 then .error .stackUnderflow
  else .ok (s.stack[s.sp.val - 1]'(by omega), { s with sp := ⟨s.sp.val - 1, by omega⟩ })

/-! ### Fetch (20_memory.md R77, R78) -/

/-- Whether a fetch at `a` stays in the program/work area (R78). -/
def fetchableAt (a : Nat) : Bool := decide (programBase ≤ a) && decide (a + 1 ≤ 0xFFF)

/-- Whether the fetch at pc is admitted (R78). -/
def fetchable (s : State) : Bool := fetchableAt s.pc.toNat

/-- The word at pc (R77). -/
def fetchedWord (s : State) : Word := wordOfBytes (s.mem.read s.pc.toNat) (s.mem.read (s.pc.toNat + 1))

/-! ### The random byte (00_scope.md R9, 42_alu.md R182) -/

/-- The byte `r` of this Step: the one the host named, else a free value (log 3). -/
def randomByte (s : State) : Byte := s.randomIn.getD (Config.randomByte s.draws)

end State

end Sys2Proof.Machine
end

