-- ==== Sys2Proof/Machine/Operands.lean ====
section
/-! DEFINITION. The operand forms (30_encoding.md R105, 20_memory.md R75): immediates are zero-extended, addresses are exact, and
an index that comes from a register is checked before use. -/

namespace Sys2Proof.Machine

/-- `zext_16(NNN)` (R105). -/
def addrWord (nnn : Addr) : Word := nnn.zeroExtend 16

/-- `zext_16(NNN) + V[0]`, exact, at most 0x10FE (40_control_flow.md R134). -/
def offsetTarget (nnn : Addr) (v0 : Byte) : Word := BitVec.ofNat 16 (nnn.toNat + v0.toNat)

/-- A key or glyph index taken from a register: 0x0..0xF, else IndexOutOfRange (41_skips.md R157, 43_index_memory.md R214). -/
def digitIndex (b : Byte) : Except FatalCode Nibble :=
  if b.toNat > 0x0F then .error .indexOutOfRange else .ok (BitVec.ofNat 4 b.toNat)

/-- `I + V[X]`, exact; a sum above 0xFFF raises IRegOutOfRange (R212). -/
def indexSum (i : Word) (b : Byte) : Except FatalCode Word :=
  if i.toNat + b.toNat > 0xFFF then .error .iRegOutOfRange else .ok (BitVec.ofNat 16 (i.toNat + b.toNat))

/-- `FONT_BASE + 5 * d` (R214). -/
def glyphAddr (d : Nibble) : Word := BitVec.ofNat 16 (fontBase + 5 * d.toNat)

/-- The hundreds, tens and ones digits of a byte (R216). -/
def bcdDigits (b : Byte) : List Byte :=
  [BitVec.ofNat 8 (b.toNat / 100), BitVec.ofNat 8 (b.toNat / 10 % 10), BitVec.ofNat 8 (b.toNat % 10)]

end Sys2Proof.Machine
end

