-- ==== Sys2Proof/Machine/Alu.lean ====
section
/-! DEFINITION. Register loads, arithmetic, logic, shifts, random (42_alu.md). Operands are read from the state before the
instruction, and VF is written last (00_scope.md R14). -/

namespace Sys2Proof.Machine

/-- LD Vx, byte (R171). -/
def execLdImm (x : Nibble) (nn : Byte) (s : State) : Host.Outcome State Fault Refusal :=
  .next (s.setReg x nn).advance

/-- ADD Vx, byte (R172): no flag. -/
def execAddImm (x : Nibble) (nn : Byte) (s : State) : Host.Outcome State Fault Refusal :=
  .next (s.setReg x (sumByte (s.reg x) nn)).advance

/-- LD Vx, Vy (R173). -/
def execLdReg (x y : Nibble) (s : State) : Host.Outcome State Fault Refusal :=
  .next (s.setReg x (s.reg y)).advance

/-- OR Vx, Vy (R174). -/
def execOrReg (x y : Nibble) (s : State) : Host.Outcome State Fault Refusal :=
  .next (s.setReg x (s.reg x ||| s.reg y)).advance

/-- AND Vx, Vy (R175). -/
def execAndReg (x y : Nibble) (s : State) : Host.Outcome State Fault Refusal :=
  .next (s.setReg x (s.reg x &&& s.reg y)).advance

/-- XOR Vx, Vy (R176). -/
def execXorReg (x y : Nibble) (s : State) : Host.Outcome State Fault Refusal :=
  .next (s.setReg x (s.reg x ^^^ s.reg y)).advance

/-- A destination, then VF (R14). -/
def State.setResultAndFlag (s : State) (x : Nibble) (result flag : Byte) : State := (s.setReg x result).setFlag flag

/-- ADD Vx, Vy (R177). -/
def execAddReg (x y : Nibble) (s : State) : Host.Outcome State Fault Refusal :=
  .next (s.setResultAndFlag x (sumByte (s.reg x) (s.reg y)) (flagByte (carry (s.reg x) (s.reg y)))).advance

/-- SUB Vx, Vy (R178): the minuend is V[X]. -/
def execSub (x y : Nibble) (s : State) : Host.Outcome State Fault Refusal :=
  .next (s.setResultAndFlag x (differenceByte (s.reg x) (s.reg y)) (flagByte (notBorrow (s.reg x) (s.reg y)))).advance

/-- SUBN Vx, Vy (R180): the minuend is V[Y]. -/
def execSubn (x y : Nibble) (s : State) : Host.Outcome State Fault Refusal :=
  .next (s.setResultAndFlag x (differenceByte (s.reg y) (s.reg x)) (flagByte (notBorrow (s.reg y) (s.reg x)))).advance

/-- SHR Vx {, Vy} (R179): Y is ignored. -/
def execShr (x _y : Nibble) (s : State) : Host.Outcome State Fault Refusal :=
  .next (s.setResultAndFlag x (shiftedRight (s.reg x)) (bitOutRight (s.reg x))).advance

/-- SHL Vx {, Vy} (R181): Y is ignored. -/
def execShl (x _y : Nibble) (s : State) : Host.Outcome State Fault Refusal :=
  .next (s.setResultAndFlag x (shiftedLeft (s.reg x)) (bitOutLeft (s.reg x))).advance

/-- The next free random byte is another one (log 3). -/
def State.drawn (s : State) : State := { s with draws := s.draws + 1 }

/-- RND Vx, byte (R182). -/
def execRnd (x : Nibble) (nn : Byte) (s : State) : Host.Outcome State Fault Refusal :=
  .next (s.setReg x (s.randomByte &&& nn)).drawn.advance

end Sys2Proof.Machine
end

