-- ==== Sys2Proof/Machine/ControlFlow.lean ====
section
/-! DEFINITION. Control transfer (40_control_flow.md): SYS, RET, JP, CALL, JP V0. -/

namespace Sys2Proof.Machine

/-- SYS addr (R130): a diagnostic. -/
def execSys (nnn : Addr) (s : State) : Host.Outcome State Fault Refusal :=
  .next (s.reportDiag .unimplementedSys (encode (.sys nnn)))

/-- RET (R131). -/
def execRet (s : State) : Host.Outcome State Fault Refusal :=
  match s.pop with
  | .error code => .next (s.raiseFatal code (some (encode .ret)))
  | .ok (target, t) => .next (t.finish target)

/-- JP addr (R132). -/
def execJp (nnn : Addr) (s : State) : Host.Outcome State Fault Refusal :=
  .next (s.finish (addrWord nnn))

/-- CALL addr (R133): the saved value is A + 2. -/
def execCall (nnn : Addr) (s : State) : Host.Outcome State Fault Refusal :=
  match s.push (s.pc + 2#16) with
  | .error code => .next (s.raiseFatal code (some (encode (.call nnn))))
  | .ok t => .next (t.finish (addrWord nnn))

/-- JP V0, addr (R134). -/
def execJpV0 (nnn : Addr) (s : State) : Host.Outcome State Fault Refusal :=
  .next (s.finish (offsetTarget nnn (s.reg 0x0#4)))

end Sys2Proof.Machine
end

