-- ==== Sys2Proof/Machine/Display.lean ====
section
/-! DEFINITION. The framebuffer and its instructions (44_display.md): CLS and DRW. -/

namespace Sys2Proof.Machine

/-! ### Pixels (R240, R241) -/

/-- A column, wrapped modulo the width (R241). -/
def wrapX (x : Nat) : Fin 64 := ⟨x % 64, by omega⟩

/-- A row, wrapped modulo the height (R241). -/
def wrapY (y : Nat) : Fin 32 := ⟨y % 32, by omega⟩

/-- `fb[x][y]`. -/
def Framebuffer.pixel (fb : Framebuffer) (x : Fin 64) (y : Fin 32) : Bool := fb[x][y]

/-- `fb[x][y] <- fb[x][y] XOR 1`. -/
def Framebuffer.flip (fb : Framebuffer) (x : Fin 64) (y : Fin 32) : Framebuffer :=
  fb.set x (fb[x].set y (!fb[x][y]))

/-! ### The draw contract (R242) -/

/-- A draw in progress: the grid, `coll` and `touched` of R242. -/
structure Canvas where
  /-- the grid so far -/
  fb : Framebuffer
  /-- whether a set pixel was erased (R243) -/
  coll : Bool
  /-- whether a pixel was touched -/
  touched : Bool
  deriving DecidableEq, Repr

/-- One set bit of a sprite, composited by XOR at a pixel (R242). -/
def Canvas.toggle (k : Canvas) (x : Fin 64) (y : Fin 32) : Canvas where
  fb := k.fb.flip x y
  coll := k.coll || k.fb.pixel x y
  touched := true

/-- Column `c` of a row byte, drawn at `(x + c, y)`; bit 7 is the leftmost column, and a 0 bit leaves its pixel alone (R242). -/
def Canvas.drawBit (x y : Nat) (row : Byte) (k : Canvas) (c : Nat) : Canvas :=
  if row.getLsbD (7 - c) then k.toggle (wrapX (x + c)) (wrapY y) else k

/-- A row byte: columns 0 to 7 (R242). -/
def Canvas.drawRow (x y : Nat) (row : Byte) (k : Canvas) : Canvas := (List.range 8).foldl (Canvas.drawBit x y row) k

/-- The rows from `y` on, downward (R242, R240). -/
def Canvas.drawRows (x y : Nat) : List Byte → Canvas → Canvas
  | [], k => k
  | row :: rows, k => Canvas.drawRows x (y + 1) rows (k.drawRow x y row)

/-- `drawSprite(x, y, rows)` (R242) on a grid; the caller raises the changed signal from `touched`. -/
def drawSprite (fb : Framebuffer) (x y : Byte) (rows : List Byte) : Canvas :=
  Canvas.drawRows x.toNat y.toNat rows ⟨fb, false, false⟩

/-- The framebuffer's draw contract on the state: the grid is drawn on, and `changed` is raised if a pixel was touched
(R242). -/
def State.composite (s : State) (k : Canvas) : State := s.setDisplay k.fb (s.changed || k.touched)

/-- `changed <- 1`, the instruction's own draw-needed signal (R250, R252, C3). -/
def State.raiseChanged (s : State) : State := s.setDisplay s.fb true

/-! ### Instructions -/

/-- CLS (R250): `clear()` of R244. -/
def execCls (s : State) : Host.Outcome State Fault Refusal :=
  .next (s.setDisplay darkFramebuffer true).advance

/-- The sprite of a DRW drawn, with its flag (R252). -/
def State.draw (s : State) (k : Canvas) : State := ((s.composite k).raiseChanged.setFlag (flagByte k.coll)).advance

/-- DRW Vx, Vy, nibble (R252): with N = 0 nothing is read or drawn. -/
def execDrw (x y n : Nibble) (s : State) : Host.Outcome State Fault Refusal :=
  match checkRead s.i.toNat n.toNat with
  | some code => .next (s.raiseFatal code (some (encode (.drw x y n))))
  | none => .next (s.draw (drawSprite s.fb (s.reg x) (s.reg y) (s.mem.readRange s.i.toNat n.toNat)))

end Sys2Proof.Machine
end

