-- ==== Sys2Proof/Machine/IndexMemory.lean ====
section
/-! DEFINITION. Index register and memory transfers (43_index_memory.md). Every check is made before any write (00_scope.md R15),
every transfer starts at I and leaves I unchanged. -/

namespace Sys2Proof.Machine

/-- LD I, addr (R210). -/
def execLdI (nnn : Addr) (s : State) : Host.Outcome State Fault Refusal :=
  .next (s.setIndex (addrWord nnn)).advance

/-- ADD I, Vx (R212). -/
def execAddI (x : Nibble) (s : State) : Host.Outcome State Fault Refusal :=
  match indexSum s.i (s.reg x) with
  | .error code => .next (s.raiseFatal code (some (encode (.addI x))))
  | .ok a => .next (s.setIndex a).advance

/-- LD F, Vx (R214). -/
def execLdF (x : Nibble) (s : State) : Host.Outcome State Fault Refusal :=
  match digitIndex (s.reg x) with
  | .error code => .next (s.raiseFatal code (some (encode (.ldF x))))
  | .ok d => .next (s.setIndex (glyphAddr d)).advance

/-- Store bytes at I, or take the fatal condition of the range (R215). -/
def State.storeAtIndex (s : State) (bytes : List Byte) (word : Word) : State :=
  match checkWrite s.i.toNat bytes.length with
  | some code => s.raiseFatal code (some word)
  | none => (s.setMem (s.mem.writeRange s.i.toNat bytes)).advance

/-- LD B, Vx (R216). -/
def execLdB (x : Nibble) (s : State) : Host.Outcome State Fault Refusal :=
  .next (s.storeAtIndex (bcdDigits (s.reg x)) (encode (.ldB x)))

/-- LD [I], Vx (R218). -/
def execLdMemVx (x : Nibble) (s : State) : Host.Outcome State Fault Refusal :=
  .next (s.storeAtIndex (s.regsUpTo x) (encode (.ldMemVx x)))

/-- LD Vx, [I] (R220). -/
def execLdVxMem (x : Nibble) (s : State) : Host.Outcome State Fault Refusal :=
  match checkRead s.i.toNat (x.toNat + 1) with
  | some code => .next (s.raiseFatal code (some (encode (.ldVxMem x))))
  | none => .next (s.setRegsFrom 0 (s.mem.readRange s.i.toNat (x.toNat + 1))).advance

end Sys2Proof.Machine
end

