-- ==== Sys2Proof/Machine/Skips.lean ====
section
/-! DEFINITION. Conditional skips (41_skips.md), each a condition and the general skip rule R150. -/

namespace Sys2Proof.Machine

/-- SE Vx, byte (R151). -/
def execSeImm (x : Nibble) (nn : Byte) (s : State) : Host.Outcome State Fault Refusal :=
  .next (s.skipIf (s.reg x == nn))

/-- SNE Vx, byte (R152). -/
def execSneImm (x : Nibble) (nn : Byte) (s : State) : Host.Outcome State Fault Refusal :=
  .next (s.skipIf (s.reg x != nn))

/-- SE Vx, Vy (R153). -/
def execSeReg (x y : Nibble) (s : State) : Host.Outcome State Fault Refusal :=
  .next (s.skipIf (s.reg x == s.reg y))

/-- SNE Vx, Vy (R154). -/
def execSneReg (x y : Nibble) (s : State) : Host.Outcome State Fault Refusal :=
  .next (s.skipIf (s.reg x != s.reg y))

/-- SKP Vx (R155). -/
def execSkp (x : Nibble) (s : State) : Host.Outcome State Fault Refusal :=
  match digitIndex (s.reg x) with
  | .error code => .next (s.raiseFatal code (some (encode (.skp x))))
  | .ok k => .next (s.skipIf (s.keyPressed k))

/-- SKNP Vx (R156). -/
def execSknp (x : Nibble) (s : State) : Host.Outcome State Fault Refusal :=
  match digitIndex (s.reg x) with
  | .error code => .next (s.raiseFatal code (some (encode (.sknp x))))
  | .ok k => .next (s.skipIf (!s.keyPressed k))

end Sys2Proof.Machine
end

