-- ==== Sys2Proof/Machine/TimersInput.lean ====
section
/-! DEFINITION. Timer instructions, the key-wait and its poll (45_timers_input.md). -/

namespace Sys2Proof.Machine

/-- LD Vx, DT (R270). -/
def execLdVxDt (x : Nibble) (s : State) : Host.Outcome State Fault Refusal :=
  .next (s.setReg x s.dt).advance

/-- LD DT, Vx (R271). -/
def execLdDtVx (x : Nibble) (s : State) : Host.Outcome State Fault Refusal :=
  .next (s.setDelay (s.reg x)).advance

/-- LD ST, Vx (R272): no pulse. -/
def execLdStVx (x : Nibble) (s : State) : Host.Outcome State Fault Refusal :=
  .next (s.setSound (s.reg x)).advance

/-- The entering Step of the key-wait (R290): pc stays at A. -/
def State.enterKeyWait (s : State) (x : Nibble) : State :=
  ({ s with waitX := x, waitPrev := s.keys, runState := .awaitKey } : State).finish s.pc

/-- LD Vx, K (R290). -/
def execLdVxK (x : Nibble) (s : State) : Host.Outcome State Fault Refusal :=
  .next (s.enterKeyWait x)

/-- The keys pressed now that were not at the previous evaluation (R291). -/
def State.newKeys (s : State) : Word := s.keys &&& ~~~s.waitPrev

/-- The least index whose bit is 1 (R291); none if there is no such bit. -/
def leastKey (w : Word) : Option Nat := (List.range 16).find? fun k => w.getLsbD k

/-- The wait completes with key `k` (R291). -/
def State.completeKeyWait (s : State) (k : Nat) : State :=
  ({ s.setReg s.waitX (BitVec.ofNat 8 k) with runState := .running } : State).advance

/-- Still waiting: a release is remembered, so a re-press counts (R291). -/
def State.keepWaiting (s : State) : State := ({ s with waitPrev := s.keys } : State).finish s.pc

/-- `KeyWaitPoll` (R291): a Step in AWAIT_KEY. -/
def State.keyWaitPoll (s : State) : State :=
  match leastKey s.newKeys with
  | none => s.keepWaiting
  | some k => s.completeKeyWait k

end Sys2Proof.Machine
end

