-- ==== Sys2Proof/Machine/HostOps.lean ====
section
/-! DEFINITION. The host's transactions other than Step (00_scope.md R9). -/

namespace Sys2Proof.Machine.State

/-- `Reset` (R340): every piece of the spec's state at its reset value. The host's own plans, pending transactions and
random bytes, are no state of the block and stay (log 8). -/
def resetBlock (s : State) : State :=
  { State.reset with pending := s.pending, randomIn := s.randomIn, draws := s.draws }

/-- `LoadProgram(bytes)` (R82). -/
def loadProgram (s : State) (bytes : List Byte) : State :=
  if s.runState ≠ .unloaded then { s with response := .loadFailed .alreadyLoaded }
  else if bytes.length > programCapacity then { s with response := .loadFailed .programTooLarge }
  else { s with mem := s.mem.writeRange programBase bytes, runState := .running, response := .loadOk }

/-- A countdown step: a timer at 0 stays at 0 (R280, R281). -/
def countDown (b : Byte) : Byte := if b.toNat > 0 then b - 1#8 else b

/-- `Tick` (R280): both timers count down; the pulse is the step of ST from 1 to 0 (C2). -/
def tick (s : State) : State :=
  { s with dt := countDown s.dt, st := countDown s.st, response := .pulse (s.st == 1#8) }

/-- `SetKey(k, p)` (R285). -/
def setKey (s : State) (k : Nibble) (pressed : Bool) : State :=
  { s with
    keys := if pressed then s.keys ||| (1#16 <<< k.toNat) else s.keys &&& ~~~(1#16 <<< k.toNat)
    response := .silent }

/-- `Snapshot` (R245): the grid is answered and no state changes. -/
def snapshot (s : State) : State := { s with response := .grid s.fb }

/-- `ConsumeChanged` (R246). -/
def consumeChanged (s : State) : State := { s with changed := false, response := .changedBit s.changed }

/-- A word placed where the next Step fetches (the host's check of the opcode table): at pc, or at PROGRAM_BASE when no
fetch is admitted at pc. The block is RUNNING with no fault record and nothing pending, so that the very next step runs
the word (log 5). -/
def placeWord (s : State) (w : Word) : State :=
  let a := if s.fetchable then s.pc.toNat else programBase
  { s with
    mem := s.mem.writeRange a (bytesOfWord w), pc := BitVec.ofNat 16 a, runState := .running, fault := none,
    pending := [] }

end Sys2Proof.Machine.State
end

