-- ==== Sys2Proof/Machine/Step.lean ====
section
/-! DEFINITION. The cycle (30_encoding.md R100), the host's transactions (00_scope.md R9) and the machine's step. -/

namespace Sys2Proof.Machine

/-- The RUNNING cycle: fetch, decode, execute (R100, R78, R306). -/
def runCycle (s : State) : Host.Outcome State Fault Refusal :=
  if s.fetchable then
    match decode s.fetchedWord with
    | .ok i => exec i s
    | .error _ => .next (s.execUnknown s.fetchedWord)
  else .next (s.raiseFatal .pcOutOfRange none)

/-- `Step(r)` (R100), by run_state; `r` is the state's random byte. -/
def cycle (s : State) : Host.Outcome State Fault Refusal :=
  match s.runState with
  | .unloaded => .next (s.hostError .notLoaded)
  | .faulted => .next (s.hostError .faulted)
  | .awaitKey => .next s.keyWaitPoll
  | .running => runCycle s

/-- The named random byte of a Step is gone after it (R52). -/
def dropRandom : Host.Outcome State Fault Refusal → Host.Outcome State Fault Refusal
  | .next t => .next { t with randomIn := none }
  | .fault f => .fault f
  | .refused r => .refused r

/-- One transaction of the host (R9). -/
def transact (t : Transaction) (s : State) : Host.Outcome State Fault Refusal :=
  match t with
  | .reset => .next s.resetBlock
  | .loadProgram bytes => .next (s.loadProgram bytes)
  | .step r => dropRandom (cycle { s with randomIn := some r })
  | .tick => .next s.tick
  | .setKey k pressed => .next (s.setKey k pressed)
  | .snapshot => .next s.snapshot
  | .consumeChanged => .next s.consumeChanged

/-- One step of the machine: the oldest pending transaction of the host, or, when none is pending, a Step (R9, R316;
log 2). -/
def step (s : State) : Host.Outcome State Fault Refusal :=
  match s.pending with
  | [] => cycle s
  | t :: rest => transact t { s with pending := rest }

/-- The state with an instruction of `nbits` bits placed where the next step fetches (log 5). -/
def State.withFetchWord (s : State) (nbits w : Nat) : State := s.placeWord (BitVec.ofNat 16 (w % 2 ^ nbits))

end Sys2Proof.Machine
end

