-- ==== Sys2Proof/Safety.lean ====
section
/-! DEFINITION. The terms claims use: what a step kept (frames), what each instruction may write, the invariant of the machine, what
a sprite covers, and the at-rest states of 70_reset_and_hazards.md R353. -/

namespace Sys2Proof

/-! ### Encodings -/

/-- The word of an instruction, as a number, and that this word decodes to it. -/
def Instr.EncodedAs (i : Instr) (n : Nat) : Prop := (encode i).toNat = n ∧ decode (encode i) = .ok i

end Sys2Proof

namespace Sys2Proof.Machine

/-! ### Frames: what two states agree on -/

/-- Every general register but the listed ones. -/
def RegsKeptExcept (xs : List Nibble) (s t : State) : Prop := ∀ r : Nibble, r ∉ xs → t.reg r = s.reg r

/-- Every byte of memory. -/
def MemKept (s t : State) : Prop := ∀ a : Nat, t.mem.read a = s.mem.read a

/-- Every byte of memory outside `base`, …, `base + n - 1`. -/
def MemKeptOutside (base n : Nat) (s t : State) : Prop :=
  ∀ a : Nat, (a < base ∨ base + n ≤ a) → t.mem.read a = s.mem.read a

/-- The index register. -/
def IndexKept (s t : State) : Prop := t.i = s.i

/-- The call stack: its entries and its depth. -/
def StackKept (s t : State) : Prop := t.stack = s.stack ∧ t.sp = s.sp

/-- Both timers. -/
def TimersKept (s t : State) : Prop := t.dt = s.dt ∧ t.st = s.st

/-- Every pixel and the changed latch. -/
def DisplayKept (s t : State) : Prop := t.fb = s.fb ∧ t.changed = s.changed

/-- The input latch. -/
def KeysKept (s t : State) : Prop := t.keys = s.keys

/-- run_state, wait_x, wait_prev and the fault record. -/
def ControlKept (s t : State) : Prop :=
  t.runState = s.runState ∧ t.waitX = s.waitX ∧ t.waitPrev = s.waitPrev ∧ t.fault = s.fault

/-- The model's own fields that stand for the host's plans. -/
def HostKept (s t : State) : Prop := t.pending = s.pending ∧ t.randomIn = s.randomIn ∧ t.draws = s.draws

/-- The parts of the state, beside the general registers, the pc and the response, that an instruction may write. -/
inductive Part where
  /-- I -/
  | index
  /-- memory -/
  | memory
  /-- the call stack -/
  | stack
  /-- DT and ST -/
  | timers
  /-- the framebuffer and changed -/
  | display
  /-- run_state, wait_x, wait_prev, fault -/
  | control
  /-- the model's own fields -/
  | host
  deriving DecidableEq, Repr

/-- What an instruction left unchanged: every general register but `xs`, every part but `parts`, and the input latch always
(10_state.md R46). The pc and the response are not in the frame. -/
def Frame (parts : List Part) (xs : List Nibble) (s t : State) : Prop :=
  RegsKeptExcept xs s t ∧ KeysKept s t ∧
  (.index ∉ parts → IndexKept s t) ∧ (.memory ∉ parts → MemKept s t) ∧ (.stack ∉ parts → StackKept s t) ∧
  (.timers ∉ parts → TimersKept s t) ∧ (.display ∉ parts → DisplayKept s t) ∧ (.control ∉ parts → ControlKept s t) ∧
  (.host ∉ parts → HostKept s t)

/-- The instruction completed: pc at `target`, and the Step answers Ok (30_encoding.md R113). -/
def Completed (target : Word) (t : State) : Prop := t.pc = target ∧ t.response = .step .ok

/-- The whole effect of taking a fatal condition (60_exceptions.md R310, R311): the record, run_state and the result of the
Step; every other field is as before. -/
def TookFatal (code : FatalCode) (word : Option Word) (s t : State) : Prop :=
  t = { s with fault := some ⟨code, word, s.pc⟩, runState := .faulted, response := .step (.fatal code word s.pc) }

/-! ### What an instruction may write -/

/-- The registers an instruction names as its ordinary destination (10_state.md R31; FX65 names V0..VX, R220). -/
def destRegs : Instr → List Nibble
  | .ldImm x _ => [x]
  | .addImm x _ => [x]
  | .ldReg x _ => [x]
  | .orReg x _ => [x]
  | .andReg x _ => [x]
  | .xorReg x _ => [x]
  | .addReg x _ => [x]
  | .sub x _ => [x]
  | .shr x _ => [x]
  | .subn x _ => [x]
  | .shl x _ => [x]
  | .rnd x _ => [x]
  | .ldVxDt x => [x]
  | .ldVxMem x => (List.range (x.toNat + 1)).map (BitVec.ofNat 4)
  | .sys _ | .cls | .ret | .jp _ | .call _ | .seImm _ _ | .sneImm _ _ | .seReg _ _ | .sneReg _ _ | .ldI _ | .jpV0 _
  | .drw _ _ _ | .skp _ | .sknp _ | .ldVxK _ | .ldDtVx _ | .ldStVx _ | .addI _ | .ldF _ | .ldB _ | .ldMemVx _ => []

/-- The registers an instruction overwrites with a flag: VF for the six instructions of 10_state.md R32, none for the
others. -/
def flagRegs : Instr → List Nibble
  | .addReg _ _ | .sub _ _ | .shr _ _ | .subn _ _ | .shl _ _ | .drw _ _ _ => [0xF#4]
  | .sys _ | .cls | .ret | .jp _ | .call _ | .seImm _ _ | .sneImm _ _ | .seReg _ _ | .ldImm _ _ | .addImm _ _ | .ldReg _ _
  | .orReg _ _ | .andReg _ _ | .xorReg _ _ | .sneReg _ _ | .ldI _ | .jpV0 _ | .rnd _ _ | .skp _ | .sknp _ | .ldVxDt _
  | .ldVxK _ | .ldDtVx _ | .ldStVx _ | .addI _ | .ldF _ | .ldB _ | .ldMemVx _ | .ldVxMem _ => []

/-- How many bytes an instruction stores at I (20_memory.md R75, R81). -/
def storeCount : Instr → Nat
  | .ldB _ => 3
  | .ldMemVx x => x.toNat + 1
  | .sys _ | .cls | .ret | .jp _ | .call _ | .seImm _ _ | .sneImm _ _ | .seReg _ _ | .ldImm _ _ | .addImm _ _ | .ldReg _ _
  | .orReg _ _ | .andReg _ _ | .xorReg _ _ | .addReg _ _ | .sub _ _ | .shr _ _ | .subn _ _ | .shl _ _ | .sneReg _ _ | .ldI _
  | .jpV0 _ | .rnd _ _ | .drw _ _ _ | .skp _ | .sknp _ | .ldVxDt _ | .ldVxK _ | .ldDtVx _ | .ldStVx _ | .addI _ | .ldF _
  | .ldVxMem _ => 0

/-- The parts an instruction may write when no fatal condition is taken: I (R34), the stack (R39), the timers (R43), the
display (R44), run_state and the wait (R48, R49), memory (R81). RND advances the model's draw counter (log 3). -/
def partsWritten : Instr → List Part
  | .call _ | .ret => [.stack]
  | .ldI _ | .addI _ | .ldF _ => [.index]
  | .ldB _ | .ldMemVx _ => [.memory]
  | .cls | .drw _ _ _ => [.display]
  | .ldDtVx _ | .ldStVx _ => [.timers]
  | .ldVxK _ => [.control]
  | .rnd _ _ => [.host]
  | .sys _ | .jp _ | .seImm _ _ | .sneImm _ _ | .seReg _ _ | .ldImm _ _ | .addImm _ _ | .ldReg _ _ | .orReg _ _ | .andReg _ _
  | .xorReg _ _ | .addReg _ _ | .sub _ _ | .shr _ _ | .subn _ _ | .shl _ _ | .sneReg _ _ | .jpV0 _ | .skp _ | .sknp _
  | .ldVxDt _ | .ldVxMem _ => []

/-! ### The invariant -/

/-- What holds between transactions of every block that was reset (R34, R36, R50, R72, R78): memory is canonical and its
font table intact, I is below 4096, pc and the stack entries are values some instruction writes, the fault record is there
exactly in FAULTED, a suspended key-wait stands at an address that was fetched from, and no named random byte is left
over. -/
structure State.Inv (s : State) : Prop where
  /-- canonical memory (R70) -/
  memWf : s.mem.Wf
  /-- the font table is at its reset contents (R72) -/
  fontIntact : ∀ a, isFontAddr a = true → s.mem.read a = unlistedByte a
  /-- I ≤ 0xFFF (R34) -/
  indexInRange : s.i.toNat ≤ 0xFFF
  /-- pc ≤ 0x10FE (R36) -/
  pcBounded : s.pc.toNat ≤ 0x10FE
  /-- return addresses ≤ 0x1000 (R36) -/
  returnsBounded : ∀ (k : Nat) (a : Word), s.stack[k]? = some a → a.toNat ≤ 0x1000
  /-- the record is there exactly in FAULTED (R50) -/
  faultIffFaulted : s.fault.isSome = true ↔ s.runState = .faulted
  /-- a suspended wait stands at its FX0A (R290) -/
  waitFetchable : s.runState = .awaitKey → 0x200 ≤ s.pc.toNat ∧ s.pc.toNat ≤ 0xFFE
  /-- the random byte is no state of the block (R52) -/
  noRandomLeft : s.randomIn = none

/-! ### Fetch -/

/-- A Step would fetch instruction `i`: the block is RUNNING, pc is in the program/work area, and the two bytes at pc decode
to `i` (30_encoding.md R100, 20_memory.md R78). -/
def State.Fetches (s : State) (i : Instr) : Prop :=
  s.runState = .running ∧ 0x200 ≤ s.pc.toNat ∧ s.pc.toNat + 1 ≤ 0xFFF ∧
  decodeBytes [s.mem.read s.pc.toNat, s.mem.read (s.pc.toNat + 1)] = .ok (i, [])

/-! ### Steps (00_scope.md R9) -/

/-- The next transaction is a Step: one whose byte the host names, or, with nothing pending, one whose byte it does not name
(log 2). -/
def State.NextIsStep (s : State) : Prop := s.pending = [] ∨ ∃ (r : Byte) (rest : List Transaction), s.pending = .step r :: rest

/-- The state with the Step at hand taken off the host's list and its named byte gone; with nothing pending, the state itself.
A Step that changes nothing leaves this, but for the response. -/
def State.stepDone (s : State) : State :=
  match s.pending with
  | [] => s
  | _ :: rest => { s with pending := rest, randomIn := none }

/-! ### Stores (20_memory.md R75, R89) -/

/-- The byte at `a` after `n` bytes, `stored 0`, `stored 1`, …, are stored at I: the stored one inside the range, the byte as before
outside. -/
def State.byteAfterStore (s : State) (n : Nat) (stored : Nat → Byte) (a : Nat) : Byte :=
  if s.i.toNat ≤ a ∧ a < s.i.toNat + n then stored (a - s.i.toNat) else s.mem.read a

/-! ### Sprites (44_display.md R241, R242) -/

/-- Whether the sprite of a DRW Vx, Vy, n has a set bit on a pixel: row `r` is the byte at `I + r`, bit 7 its leftmost column,
and both coordinates wrap. -/
def State.SpriteOn (s : State) (x y n : Nibble) (px : Fin 64) (py : Fin 32) : Prop :=
  ∃ r c : Nat, r < n.toNat ∧ c < 8 ∧ (s.mem.read (s.i.toNat + r)).getLsbD (7 - c) = true ∧
    px.val = ((s.reg x).toNat + c) % 64 ∧ py.val = ((s.reg y).toNat + r) % 32

/-! ### Keys (45_timers_input.md R291) -/

/-- Key `k` is pressed and was not at the previous evaluation of the wait. -/
def State.NewlyPressed (s : State) (k : Nibble) : Prop := s.keyPressed k = true ∧ s.waitPrev.getLsbD k.toNat = false

/-! ### At rest (70_reset_and_hazards.md R353) -/

/-- The conventional halt (R353 b): RUNNING, and the word at pc, both of whose bytes exist, is a jump to pc. Nothing is asked of
what the host does next, nor that a fetch is admitted at pc. -/
def State.AtSelfJump (s : State) : Prop :=
  s.runState = .running ∧ s.pc.toNat + 1 ≤ 0xFFF ∧
  ∃ nnn : Addr, decodeBytes [s.mem.read s.pc.toNat, s.mem.read (s.pc.toNat + 1)] = .ok (.jp nnn, []) ∧ s.pc = addrWord nnn

/-- Whether a transaction presses a key. -/
def Transaction.presses : Transaction → Bool
  | .setKey _ pressed => pressed
  | .reset => false
  | .loadProgram _ => false
  | .step _ => false
  | .tick => false
  | .snapshot => false
  | .consumeChanged => false

/-- At rest (R353): FAULTED, at the conventional halt, or waiting for a key while the host presses none. -/
def State.AtRest (s : State) : Prop :=
  s.runState = .faulted ∨ s.AtSelfJump ∨ (s.runState = .awaitKey ∧ ∀ t ∈ s.pending, t.presses = false)

/-- A safe state, in the terms of claims: no fatal condition has been taken (R310). -/
def State.Safe (s : State) : Prop := s.runState ≠ .faulted

end Sys2Proof.Machine
end

