-- ==== Sys2Proof/Certificates/Slice0/Obligations.lean ====
section
/-! DEFINITION. The statements for the provers, one per rule or group of rules of spec/; OBLIGATIONS.json says which rule each one
formalises. `∃ t, exec i s = .next t ∧ …` says that the instruction completes and what the next state holds. That a transaction
stands first in `pending` (log 2) and that its output stands in `response` (log 1) is the model's form for the host; what the
transaction does is the rule's. -/

open Sys2Proof Sys2Proof.Machine

/-! ### Encoding (30_encoding.md) -/

/-- Decoding the word, or the bytes, of a well-formed instruction gives that instruction back, with every operand at every
value (R101, R106). -/
def Obligations.DecodeOfEncodeIsTheInstruction : Prop :=
  ∀ (i : Instr) (rest : List Byte), i.wf = true →
    decode (encode i) = .ok i ∧ decodeBytes (encodeBytes i ++ rest) = .ok (i, rest)

/-- Every word that decodes is the word of what it decodes to, which is well-formed: no bit is dropped (R104, R106; for SHR and SHL,
whose only operand is X, this rests on the model's choice to keep the ignored Y field, log 12). -/
def Obligations.EncodeOfDecodeIsTheWord : Prop :=
  ∀ (w : Word) (i : Instr), decode w = .ok i → i.wf = true ∧ encode i = w

/-- The decoder follows the opcode map: a word that decodes to an instruction fits the instruction's own row and no other,
and an UNKNOWN word fits none (R107, which the spec derives from R104 and R106). -/
def Obligations.EveryWordFitsOneRowOrIsUnknown : Prop :=
  ∀ w : Word,
    (∀ i, decode w = .ok i → (opcodeRows.filter (·.fits w)).map (·.mnemonic) = [i.mnemonic]) ∧
    (∀ u, decode w = .error u → opcodeRows.filter (·.fits w) = [])

/-- The UNKNOWN words are those of R108, by family and sub-selector. -/
def Obligations.UnknownWordsAreThoseListed : Prop :=
  ∀ w : Word,
    (∃ u, decode w = .error u) ↔
      (w.toNat / 4096 = 5 ∧ w.toNat % 16 ≠ 0) ∨
      (w.toNat / 4096 = 8 ∧ w.toNat % 16 ∈ [0x8, 0x9, 0xA, 0xB, 0xC, 0xD, 0xF]) ∨
      (w.toNat / 4096 = 9 ∧ w.toNat % 16 ≠ 0) ∨
      (w.toNat / 4096 = 0xE ∧ w.toNat % 256 ∉ [0x9E, 0xA1]) ∨
      (w.toNat / 4096 = 0xF ∧ w.toNat % 256 ∉ [0x07, 0x0A, 0x15, 0x18, 0x1E, 0x29, 0x33, 0x55, 0x65])

/-- Words of the spec's own examples decode to the instructions they stand for (sanity). -/
def Obligations.ExampleWordsDecode : Prop :=
  decode 0x0123#16 = .ok (.sys 0x123#12) ∧ decode 0x2300#16 = .ok (.call 0x300#12) ∧
  decode 0x3342#16 = .ok (.seImm 0x3#4 0x42#8) ∧ decode 0x8127#16 = .ok (.subn 0x1#4 0x2#4) ∧
  decode 0xD015#16 = .ok (.drw 0x0#4 0x1#4 0x5#4) ∧ decode 0xF265#16 = .ok (.ldVxMem 0x2#4)

/-! ### The cycle (30_encoding.md R100) -/

/-- When the two bytes at pc decode to `i` and the block is RUNNING, a Step is `exec i` (R100): from the state itself when nothing is
pending, and with the byte the host names, which is gone afterwards, when a Step stands first (R9; log 2, log 3). -/
def Obligations.StepRunsTheDecodedInstruction : Prop :=
  ∀ (s : State) (i : Instr), s.Fetches i →
    (s.pending = [] → step s = exec i s) ∧
    (∀ (r : Byte) (rest : List Transaction), s.pending = .step r :: rest →
      ∃ t, exec i { s with pending := rest, randomIn := some r } = .next t ∧ step s = .next { t with randomIn := none })

/-- The fetched word is big-endian: the high byte at the lower address (R77). -/
def Obligations.FetchedWordIsBigEndian : Prop :=
  ∀ s : State, s.fetchedWord.toNat = (s.mem.read s.pc.toNat).toNat * 256 + (s.mem.read (s.pc.toNat + 1)).toNat

/-- A fetch below PROGRAM_BASE, or whose second byte would lie above 0xFFF, raises PcOutOfRange before anything else
(R78). -/
def Obligations.FetchOutsideProgramAreaIsFatal : Prop :=
  ∀ s : State, s.NextIsStep → s.runState = .running → (s.pc.toNat < 0x200 ∨ s.pc.toNat + 1 > 0xFFF) →
    ∃ t, step s = .next t ∧ TookFatal .pcOutOfRange none s.stepDone t

/-- An UNKNOWN word is reported with its pc, pc moves past it, and nothing else changes (R306). -/
def Obligations.UnknownWordIsReportedAndSkipped : Prop :=
  ∀ (s : State) (u : Unknown), s.NextIsStep → s.runState = .running → 0x200 ≤ s.pc.toNat → s.pc.toNat + 1 ≤ 0xFFF →
    decodeBytes [s.mem.read s.pc.toNat, s.mem.read (s.pc.toNat + 1)] = .error (.unknown u) →
    ∃ (w : Word), w.toNat = (s.mem.read s.pc.toNat).toNat * 256 + (s.mem.read (s.pc.toNat + 1)).toNat ∧
      step s = .next { s.stepDone with pc := s.pc + 2#16, response := .step (.diag .unknownInstruction w s.pc) }

/-- A Step in UNLOADED or in FAULTED, whether the host names its byte or not, answers its host error and changes no state (R320,
R321). -/
def Obligations.StepNotLoadedOrFaultedChangesNothing : Prop :=
  ∀ s : State, s.NextIsStep →
    (s.runState = .unloaded → step s = .next { s.stepDone with response := .step (.hostError .notLoaded) }) ∧
    (s.runState = .faulted → step s = .next { s.stepDone with response := .step (.hostError .faulted) })

/-- The machine never stops: from every state, whatever the memory, the registers and the host's plans, a step answers a
next state (R353: "The block never stops by itself"). -/
def Obligations.EveryStepAnswersANextState : Prop :=
  ∀ s : State, ∃ t, step s = .next t

/-- A Step, named byte or not, answers exactly one result, and it is a fatal one exactly when the Step took the block from RUNNING to FAULTED
(R11, R310). -/
def Obligations.StepAnswersOneResult : Prop :=
  ∀ s t : State, s.NextIsStep → step s = .next t →
    ∃ r, t.response = .step r ∧
      ((∃ code word pc, r = .fatal code word pc) ↔ (s.runState = .running ∧ t.runState = .faulted))

/-- A store that completes, of LD B, Vx or of LD [I], Vx, is seen by the very next fetch: each byte of the word at A + 2 is the stored
one where the store reached it, be it both bytes, one of them or none, and the byte as before where it did not (R89). -/
def Obligations.NextFetchSeesAStore : Prop :=
  ∀ (x : Nibble) (s : State), 80 ≤ s.i.toNat →
    (s.i.toNat + 2 ≤ 0xFFF →
      ∃ t, exec (.ldB x) s = .next t ∧ t.pc = s.pc + 2#16 ∧
        ∃ digit : Nat → Byte,
          (digit 0).toNat = (s.reg x).toNat / 100 ∧ (digit 1).toNat = (s.reg x).toNat / 10 % 10 ∧
          (digit 2).toNat = (s.reg x).toNat % 10 ∧
          t.fetchedWord.toNat =
            (s.byteAfterStore 3 digit t.pc.toNat).toNat * 256 + (s.byteAfterStore 3 digit (t.pc.toNat + 1)).toNat) ∧
    (s.i.toNat + x.toNat ≤ 0xFFF →
      ∃ t, exec (.ldMemVx x) s = .next t ∧ t.pc = s.pc + 2#16 ∧
        t.fetchedWord.toNat =
          (s.byteAfterStore (x.toNat + 1) (fun k => s.reg (BitVec.ofNat 4 k)) t.pc.toNat).toNat * 256 +
          (s.byteAfterStore (x.toNat + 1) (fun k => s.reg (BitVec.ofNat 4 k)) (t.pc.toNat + 1)).toNat)

/-! ### Whole-machine rules -/

/-- The invariant holds right after reset. Beside what R34, R36, R50 and R72 say, it holds the model's own clauses: canonical memory
(log 11) and no random byte left over (log 3). -/
def Obligations.InvariantHoldsAtReset : Prop := State.reset.Inv

/-- Every step keeps the invariant, whatever instruction or transaction it performs: canonical memory, intact font table,
I below 4096, bounded pc and return addresses, the fault record exactly in FAULTED (R34 and R36, which the spec derives, R50,
R72; canonical memory and the random byte are the model's, logs 11 and 3). -/
def Obligations.EveryStepKeepsTheInvariant : Prop :=
  ∀ s t : State, s.Inv → step s = .next t → t.Inv

/-- All or nothing: a Step, named byte or not, that ends FAULTED has written the fault record of its own instruction word and pc, and nothing
else of the state before it (R15, R310). -/
def Obligations.FatalStepWritesOnlyTheRecord : Prop :=
  ∀ s t : State, s.NextIsStep → s.runState = .running → step s = .next t → t.runState = .faulted →
    ∃ code word, TookFatal code word s.stepDone t ∧
      (code = .pcOutOfRange → word = none) ∧ (code ≠ .pcOutOfRange → word = some s.fetchedWord)

/-- FAULTED is left by Reset only: any other transaction, and any Step, keeps the fault record and every register, memory
byte, stack entry and pixel (R322, which the spec derives, and R48). -/
def Obligations.FaultedUntilReset : Prop :=
  ∀ s t : State, s.runState = .faulted → s.pending.head? ≠ some .reset → step s = .next t →
    t.runState = .faulted ∧ t.fault = s.fault ∧ t.pc = s.pc ∧ t.i = s.i ∧ t.v = s.v ∧ t.mem = s.mem ∧ t.fb = s.fb ∧
    StackKept s t

/-- No instruction changes a general register but those it names as its destination and, for the six instructions of R32,
VF. -/
def Obligations.RegistersChangeOnlyAsNamed : Prop :=
  ∀ (i : Instr) (s t : State), exec i s = .next t → RegsKeptExcept (destRegs i ++ flagRegs i) s t

/-- No instruction stores to a byte outside the range I, I+1, … of its own store; one that stores nothing changes no byte
(R75, R81). -/
def Obligations.MemoryChangesOnlyInStoredRange : Prop :=
  ∀ (i : Instr) (s t : State), exec i s = .next t → MemKeptOutside s.i.toNat (storeCount i) s t

/-- I is written by ANNN, FX1E, FX29 only; the stack by CALL and RET only; the timers by FX15 and FX18 only; the display by
00E0 and DXYN only; the wait by FX0A only; the key latch by no instruction. A fatal condition writes run_state and the
record (R34, R39, R43, R44, R46, R48). -/
def Obligations.PartsChangeOnlyByTheirWriters : Prop :=
  ∀ (i : Instr) (s t : State), exec i s = .next t →
    (t.runState ≠ .faulted → Frame (.memory :: partsWritten i) (destRegs i ++ flagRegs i) s t) ∧
    (s.runState ≠ .faulted → t.runState = .faulted → ∃ code word, TookFatal code word s t)

/-- The font table is immutable: no instruction, in any state, changes a byte of 0x000..0x04F (R72). -/
def Obligations.NoInstructionWritesTheFont : Prop :=
  ∀ (i : Instr) (s t : State), exec i s = .next t → ∀ a, a < 80 → t.mem.read a = s.mem.read a

/-! ### Transactions of the host (00_scope.md R9) -/

/-- Tick: each timer goes down by exactly 1 unless it is 0, the pulse is the step of ST from 1 to 0, and nothing else
changes (R280). -/
def Obligations.TickCountsDown : Prop :=
  ∀ (s : State) (rest : List Transaction), s.pending = .tick :: rest →
    ∃ t, step s = .next t ∧ t.dt.toNat = s.dt.toNat - 1 ∧ t.st.toNat = s.st.toNat - 1 ∧
      t.response = .pulse (decide (s.st.toNat = 1)) ∧
      t = { s with dt := t.dt, st := t.st, response := t.response, pending := rest }

/-- A run of n ticks takes n from each timer, clamped at 0, and its last tick pulses exactly when ST was n (R281, which the spec
derives from R280). -/
def Obligations.TicksClampAndPulseOnce : Prop :=
  ∀ (n : Nat) (s : State), s.pending = List.replicate (n + 1) .tick →
    ∃ t, core.run (n + 1) s = .next t ∧ t.dt.toNat = s.dt.toNat - (n + 1) ∧ t.st.toNat = s.st.toNat - (n + 1) ∧
      t.response = .pulse (decide (s.st.toNat = n + 1))

/-- SetKey sets the one key and changes no other state: a suspended wait is not completed by it (R285). -/
def Obligations.SetKeySetsOneKey : Prop :=
  ∀ (s : State) (k : Nibble) (p : Bool) (rest : List Transaction), s.pending = .setKey k p :: rest →
    ∃ t, step s = .next t ∧ t.keyPressed k = p ∧ (∀ j : Nibble, j ≠ k → t.keyPressed j = s.keyPressed j) ∧
      t = { s with keys := t.keys, response := .silent, pending := rest }

/-- LoadProgram: refused unless UNLOADED, refused above 3584 bytes, else the bytes stand from 0x200 on, every other byte is
as before, and the block is RUNNING (R82). -/
def Obligations.LoadProgramCopiesOrRefuses : Prop :=
  ∀ (s : State) (bytes : List Byte) (rest : List Transaction), s.pending = .loadProgram bytes :: rest →
    (s.runState ≠ .unloaded →
      step s = .next { s with response := .loadFailed .alreadyLoaded, pending := rest }) ∧
    (s.runState = .unloaded → 3584 < bytes.length →
      step s = .next { s with response := .loadFailed .programTooLarge, pending := rest }) ∧
    (s.runState = .unloaded → bytes.length ≤ 3584 →
      ∃ t, step s = .next t ∧ t.runState = .running ∧ t.response = .loadOk ∧
        (∀ (k : Nat) (b : Byte), bytes[k]? = some b → t.mem.read (0x200 + k) = b) ∧
        MemKeptOutside 0x200 bytes.length s t ∧
        t = { s with mem := t.mem, runState := .running, response := .loadOk, pending := rest })

/-- Snapshot answers the grid and clears nothing; ConsumeChanged answers the latch and clears it (R245, R246). -/
def Obligations.HostReadsOfTheDisplay : Prop :=
  ∀ (s : State) (rest : List Transaction),
    (s.pending = .snapshot :: rest → step s = .next { s with response := .grid s.fb, pending := rest }) ∧
    (s.pending = .consumeChanged :: rest →
      step s = .next { s with changed := false, response := .changedBit s.changed, pending := rest })

/-- Reset, from every state, gives every piece of the block's state its reset value (R340). -/
def Obligations.ResetRestoresEverything : Prop :=
  ∀ (s : State) (rest : List Transaction), s.pending = .reset :: rest →
    ∃ t, step s = .next t ∧ (∀ x, t.reg x = 0#8) ∧ t.i = 0#16 ∧ t.pc = 0x200#16 ∧
      (∀ (k : Nat) (a : Word), t.stack[k]? = some a → a = 0#16) ∧ t.sp.val = 0 ∧ t.dt = 0#8 ∧ t.st = 0#8 ∧
      (∀ px py, Framebuffer.pixel t.fb px py = false) ∧ t.changed = false ∧
      (∀ a, a < 80 → fontTable[a]? = some (t.mem.read a)) ∧ (∀ a, 80 ≤ a → a < 0x1000 → t.mem.read a = 0#8) ∧
      t.keys = 0#16 ∧ t.runState = .unloaded ∧ t.waitX = 0#4 ∧ t.waitPrev = 0#16 ∧ t.fault = none

/-! ### Control flow (40_control_flow.md) -/

/-- SYS reports UnimplementedSys with its word and pc, moves pc past it, and changes nothing else (R130). -/
def Obligations.SysReportsAndSkips : Prop :=
  ∀ (nnn : Addr) (s : State), nnn ≠ 0x0E0#12 → nnn ≠ 0x0EE#12 →
    (Instr.sys nnn).EncodedAs nnn.toNat ∧
    exec (.sys nnn) s =
      .next { s with pc := s.pc + 2#16, response := .step (.diag .unimplementedSys (encode (.sys nnn)) s.pc) }

/-- JP goes to NNN, JP V0 to the exact sum NNN + V0; nothing else changes (R132, R134). -/
def Obligations.JumpsGoToTheirTargets : Prop :=
  ∀ (nnn : Addr) (s : State),
    ((Instr.jp nnn).EncodedAs (0x1000 + nnn.toNat) ∧
      ∃ t, exec (.jp nnn) s = .next t ∧ t.pc.toNat = nnn.toNat ∧ t.response = .step .ok ∧ Frame [] [] s t) ∧
    ((Instr.jpV0 nnn).EncodedAs (0xB000 + nnn.toNat) ∧
      ∃ t, exec (.jpV0 nnn) s = .next t ∧ t.pc.toNat = nnn.toNat + (s.reg 0x0#4).toNat ∧ t.response = .step .ok ∧
        Frame [] [] s t)

/-- CALL pushes A + 2 and goes to NNN; with 16 entries it raises StackOverflow (R40, R133). -/
def Obligations.CallPushesOrOverflows : Prop :=
  ∀ (nnn : Addr) (s : State),
    (Instr.call nnn).EncodedAs (0x2000 + nnn.toNat) ∧
    (s.sp.val < 16 →
      ∃ t, exec (.call nnn) s = .next t ∧ t.pc.toNat = nnn.toNat ∧ t.response = .step .ok ∧
        t.sp.val = s.sp.val + 1 ∧ t.stack[s.sp.val]? = some (s.pc + 2#16) ∧
        (∀ k, k ≠ s.sp.val → t.stack[k]? = s.stack[k]?) ∧ Frame [.stack] [] s t) ∧
    (s.sp.val = 16 →
      ∃ t, exec (.call nnn) s = .next t ∧ TookFatal .stackOverflow (some (encode (.call nnn))) s t)

/-- RET goes to the popped value exactly and keeps the entries; with no entry it raises StackUnderflow (R41, R131). -/
def Obligations.RetPopsOrUnderflows : Prop :=
  ∀ s : State,
    Instr.ret.EncodedAs 0x00EE ∧
    (s.sp.val ≠ 0 →
      ∃ t, exec .ret s = .next t ∧ s.stack[s.sp.val - 1]? = some t.pc ∧ t.response = .step .ok ∧
        t.sp.val = s.sp.val - 1 ∧ t.stack = s.stack ∧ Frame [.stack] [] s t) ∧
    (s.sp.val = 0 →
      ∃ t, exec .ret s = .next t ∧ TookFatal .stackUnderflow (some 0x00EE#16) s t)

/-- At any depth below 16, a CALL and then a RET, with the stack as the CALL left it, come back to the instruction after the
CALL at the depth before it (40_control_flow.md R131, R133). -/
def Obligations.CallThenRetComesBack : Prop :=
  ∀ (nnn : Addr) (s : State), s.sp.val < 16 →
    ∃ t, exec (.call nnn) s = .next t ∧
      ∀ u : State, u.stack = t.stack → u.sp = t.sp →
        ∃ v, exec .ret u = .next v ∧ v.pc = s.pc + 2#16 ∧ v.sp = s.sp

/-- The conventional halt stays, where a fetch is admitted at it: a Step at a jump to itself changes no state, and no transaction but
Reset leaves the halt, though the timers count and keys change (R132, R353). -/
def Obligations.SelfJumpStays : Prop :=
  ∀ s : State, s.AtSelfJump → 0x200 ≤ s.pc.toNat →
    (s.NextIsStep → step s = .next { s.stepDone with response := .step .ok }) ∧
    (s.pending.head? ≠ some .reset → ∃ t, step s = .next t ∧ t.AtSelfJump ∧ t.pc = s.pc)

/-! ### Skips (41_skips.md) -/

/-- The four comparisons skip one word exactly when their condition holds, and change nothing else (R151 to R154). -/
def Obligations.ComparisonsSkipOneWord : Prop :=
  ∀ (x y : Nibble) (nn : Byte) (s : State),
    ((Instr.seImm x nn).EncodedAs (0x3000 + x.toNat * 256 + nn.toNat) ∧
      ∃ t, exec (.seImm x nn) s = .next t ∧ Frame [] [] s t ∧
        Completed (if s.reg x = nn then s.pc + 4#16 else s.pc + 2#16) t) ∧
    ((Instr.sneImm x nn).EncodedAs (0x4000 + x.toNat * 256 + nn.toNat) ∧
      ∃ t, exec (.sneImm x nn) s = .next t ∧ Frame [] [] s t ∧
        Completed (if s.reg x = nn then s.pc + 2#16 else s.pc + 4#16) t) ∧
    ((Instr.seReg x y).EncodedAs (0x5000 + x.toNat * 256 + y.toNat * 16) ∧
      ∃ t, exec (.seReg x y) s = .next t ∧ Frame [] [] s t ∧
        Completed (if s.reg x = s.reg y then s.pc + 4#16 else s.pc + 2#16) t) ∧
    ((Instr.sneReg x y).EncodedAs (0x9000 + x.toNat * 256 + y.toNat * 16) ∧
      ∃ t, exec (.sneReg x y) s = .next t ∧ Frame [] [] s t ∧
        Completed (if s.reg x = s.reg y then s.pc + 2#16 else s.pc + 4#16) t)

/-- SKP and SKNP read the level of key V[X]; V[X] above 0x0F raises IndexOutOfRange (R155, R156). -/
def Obligations.KeySkipsReadTheLatch : Prop :=
  ∀ (x : Nibble) (s : State),
    (Instr.skp x).EncodedAs (0xE09E + x.toNat * 256) ∧ (Instr.sknp x).EncodedAs (0xE0A1 + x.toNat * 256) ∧
    ((s.reg x).toNat ≤ 0x0F →
      (∃ t, exec (.skp x) s = .next t ∧ Frame [] [] s t ∧
        Completed (if s.keys.getLsbD (s.reg x).toNat = true then s.pc + 4#16 else s.pc + 2#16) t) ∧
      (∃ t, exec (.sknp x) s = .next t ∧ Frame [] [] s t ∧
        Completed (if s.keys.getLsbD (s.reg x).toNat = true then s.pc + 2#16 else s.pc + 4#16) t)) ∧
    (0x0F < (s.reg x).toNat →
      (∃ t, exec (.skp x) s = .next t ∧ TookFatal .indexOutOfRange (some (encode (.skp x))) s t) ∧
      (∃ t, exec (.sknp x) s = .next t ∧ TookFatal .indexOutOfRange (some (encode (.sknp x))) s t))

/-! ### Registers and arithmetic (42_alu.md) -/

/-- LD Vx, byte and LD Vx, Vy (R171, R173). -/
def Obligations.LoadsWriteTheDestination : Prop :=
  ∀ (x y : Nibble) (nn : Byte) (s : State),
    ((Instr.ldImm x nn).EncodedAs (0x6000 + x.toNat * 256 + nn.toNat) ∧
      ∃ t, exec (.ldImm x nn) s = .next t ∧ t.reg x = nn ∧ Completed (s.pc + 2#16) t ∧ Frame [] [x] s t) ∧
    ((Instr.ldReg x y).EncodedAs (0x8000 + x.toNat * 256 + y.toNat * 16) ∧
      ∃ t, exec (.ldReg x y) s = .next t ∧ t.reg x = s.reg y ∧ Completed (s.pc + 2#16) t ∧ Frame [] [x] s t)

/-- ADD Vx, byte wraps modulo 256 and writes no flag (R172). -/
def Obligations.AddImmediateWrapsWithoutFlag : Prop :=
  ∀ (x : Nibble) (nn : Byte) (s : State),
    (Instr.addImm x nn).EncodedAs (0x7000 + x.toNat * 256 + nn.toNat) ∧
    ∃ t, exec (.addImm x nn) s = .next t ∧ (t.reg x).toNat = ((s.reg x).toNat + nn.toNat) % 256 ∧
      Completed (s.pc + 2#16) t ∧ Frame [] [x] s t

/-- OR, AND, XOR bit by bit, without a flag (R174, R175, R176). -/
def Obligations.BitwiseOperationsBitByBit : Prop :=
  ∀ (x y : Nibble) (s : State),
    ((Instr.orReg x y).EncodedAs (0x8001 + x.toNat * 256 + y.toNat * 16) ∧
      ∃ t, exec (.orReg x y) s = .next t ∧ Completed (s.pc + 2#16) t ∧ Frame [] [x] s t ∧
        ∀ k, (t.reg x).getLsbD k = ((s.reg x).getLsbD k || (s.reg y).getLsbD k)) ∧
    ((Instr.andReg x y).EncodedAs (0x8002 + x.toNat * 256 + y.toNat * 16) ∧
      ∃ t, exec (.andReg x y) s = .next t ∧ Completed (s.pc + 2#16) t ∧ Frame [] [x] s t ∧
        ∀ k, (t.reg x).getLsbD k = ((s.reg x).getLsbD k && (s.reg y).getLsbD k)) ∧
    ((Instr.xorReg x y).EncodedAs (0x8003 + x.toNat * 256 + y.toNat * 16) ∧
      ∃ t, exec (.xorReg x y) s = .next t ∧ Completed (s.pc + 2#16) t ∧ Frame [] [x] s t ∧
        ∀ k, (t.reg x).getLsbD k = ((s.reg x).getLsbD k != (s.reg y).getLsbD k))

/-- ADD Vx, Vy: VF is 1 exactly when the exact sum is 256 or more, also when X = F, and another destination holds the sum
modulo 256 (R177, C5). -/
def Obligations.AddSetsCarry : Prop :=
  ∀ (x y : Nibble) (s : State),
    (Instr.addReg x y).EncodedAs (0x8004 + x.toNat * 256 + y.toNat * 16) ∧
    ∃ t, exec (.addReg x y) s = .next t ∧
      (x ≠ 0xF#4 → (t.reg x).toNat = ((s.reg x).toNat + (s.reg y).toNat) % 256) ∧
      (t.reg 0xF#4).toNat = (if (s.reg x).toNat + (s.reg y).toNat ≥ 256 then 1 else 0) ∧
      Completed (s.pc + 2#16) t ∧ Frame [] [x, 0xF#4] s t

/-- SUB and SUBN: VF is 1 exactly when minuend ≥ subtrahend, also when X = F, and another destination holds the difference
modulo 256 (R178, R180, C10). -/
def Obligations.SubtractsSetNotBorrow : Prop :=
  ∀ (x y : Nibble) (s : State),
    ((Instr.sub x y).EncodedAs (0x8005 + x.toNat * 256 + y.toNat * 16) ∧
      ∃ t, exec (.sub x y) s = .next t ∧
        (x ≠ 0xF#4 → (t.reg x).toNat = ((s.reg x).toNat + 256 - (s.reg y).toNat) % 256) ∧
        (t.reg 0xF#4).toNat = (if (s.reg x).toNat ≥ (s.reg y).toNat then 1 else 0) ∧
        Completed (s.pc + 2#16) t ∧ Frame [] [x, 0xF#4] s t) ∧
    ((Instr.subn x y).EncodedAs (0x8007 + x.toNat * 256 + y.toNat * 16) ∧
      ∃ t, exec (.subn x y) s = .next t ∧
        (x ≠ 0xF#4 → (t.reg x).toNat = ((s.reg y).toNat + 256 - (s.reg x).toNat) % 256) ∧
        (t.reg 0xF#4).toNat = (if (s.reg y).toNat ≥ (s.reg x).toNat then 1 else 0) ∧
        Completed (s.pc + 2#16) t ∧ Frame [] [x, 0xF#4] s t)

/-- SHR and SHL shift V[X] by one, whatever Y is, and VF is the bit shifted out, also when X = F (R179, R181). -/
def Obligations.ShiftsSetTheBitShiftedOut : Prop :=
  ∀ (x y : Nibble) (s : State),
    ((Instr.shr x y).EncodedAs (0x8006 + x.toNat * 256 + y.toNat * 16) ∧
      ∃ t, exec (.shr x y) s = .next t ∧
        (x ≠ 0xF#4 → (t.reg x).toNat = (s.reg x).toNat / 2) ∧
        (t.reg 0xF#4).toNat = (s.reg x).toNat % 2 ∧ Completed (s.pc + 2#16) t ∧ Frame [] [x, 0xF#4] s t) ∧
    ((Instr.shl x y).EncodedAs (0x800E + x.toNat * 256 + y.toNat * 16) ∧
      ∃ t, exec (.shl x y) s = .next t ∧
        (x ≠ 0xF#4 → (t.reg x).toNat = (s.reg x).toNat * 2 % 256) ∧
        (t.reg 0xF#4).toNat = (s.reg x).toNat / 128 ∧ Completed (s.pc + 2#16) t ∧ Frame [] [x, 0xF#4] s t)

/-- RND writes r AND NN, whatever byte r this Step has (R182). How r comes to the instruction is the model's choice, not the rule's: the
clauses on `randomIn`, on the free byte `Config.randomByte s.draws` and on `draws` are log 3. -/
def Obligations.RndMasksTheRandomByte : Prop :=
  ∀ (x : Nibble) (nn : Byte) (s : State),
    (Instr.rnd x nn).EncodedAs (0xC000 + x.toNat * 256 + nn.toNat) ∧
    ∃ t, exec (.rnd x nn) s = .next t ∧ Completed (s.pc + 2#16) t ∧ Frame [.host] [x] s t ∧
      (∀ r, s.randomIn = some r → t.reg x = r &&& nn) ∧
      (s.randomIn = none → t.reg x = Config.randomByte s.draws &&& nn ∧ t.draws ≠ s.draws) ∧
      t.pending = s.pending ∧ t.randomIn = s.randomIn

/-- The byte the host names with a Step is the byte CXNN uses in that Step, any byte at all, and it is gone afterwards
(00_scope.md R9, R182; the pending list is the model's, log 2). -/
def Obligations.NamedRandomByteReachesRnd : Prop :=
  ∀ (x : Nibble) (nn r : Byte) (s : State) (rest : List Transaction), s.pending = .step r :: rest →
    s.Fetches (.rnd x nn) →
    ∃ t, step s = .next t ∧ t.reg x = r &&& nn ∧ t.pc = s.pc + 2#16 ∧ t.pending = rest ∧ t.randomIn = none

/-! ### Index register and memory (43_index_memory.md) -/

/-- LD I, addr (R210). -/
def Obligations.LoadIndexWritesTheAddress : Prop :=
  ∀ (nnn : Addr) (s : State),
    (Instr.ldI nnn).EncodedAs (0xA000 + nnn.toNat) ∧
    ∃ t, exec (.ldI nnn) s = .next t ∧ t.i.toNat = nnn.toNat ∧ Completed (s.pc + 2#16) t ∧ Frame [.index] [] s t

/-- ADD I, Vx adds exactly, or raises IRegOutOfRange when the sum leaves 0x000..0xFFF (R212). -/
def Obligations.AddIndexExactOrFatal : Prop :=
  ∀ (x : Nibble) (s : State),
    (Instr.addI x).EncodedAs (0xF01E + x.toNat * 256) ∧
    (s.i.toNat + (s.reg x).toNat ≤ 0xFFF →
      ∃ t, exec (.addI x) s = .next t ∧ t.i.toNat = s.i.toNat + (s.reg x).toNat ∧ Completed (s.pc + 2#16) t ∧
        Frame [.index] [] s t) ∧
    (0xFFF < s.i.toNat + (s.reg x).toNat →
      ∃ t, exec (.addI x) s = .next t ∧ TookFatal .iRegOutOfRange (some (encode (.addI x))) s t)

/-- LD F, Vx points I at glyph V[X], five bytes each from address 0, or raises IndexOutOfRange above 0x0F (R214). -/
def Obligations.LoadGlyphPointsAtTheFont : Prop :=
  ∀ (x : Nibble) (s : State),
    (Instr.ldF x).EncodedAs (0xF029 + x.toNat * 256) ∧
    ((s.reg x).toNat ≤ 0x0F →
      ∃ t, exec (.ldF x) s = .next t ∧ t.i.toNat = 5 * (s.reg x).toNat ∧ Completed (s.pc + 2#16) t ∧
        Frame [.index] [] s t) ∧
    (0x0F < (s.reg x).toNat →
      ∃ t, exec (.ldF x) s = .next t ∧ TookFatal .indexOutOfRange (some (encode (.ldF x))) s t)

/-- LD B, Vx stores the three digits at I, I+1, I+2; a range past 0xFFF raises MemOutOfRange, one that meets the font table
ProtectedWrite (R216). -/
def Obligations.BcdStoresThreeDigits : Prop :=
  ∀ (x : Nibble) (s : State),
    (Instr.ldB x).EncodedAs (0xF033 + x.toNat * 256) ∧
    (80 ≤ s.i.toNat → s.i.toNat + 2 ≤ 0xFFF →
      ∃ t, exec (.ldB x) s = .next t ∧
        (t.mem.read s.i.toNat).toNat = (s.reg x).toNat / 100 ∧
        (t.mem.read (s.i.toNat + 1)).toNat = (s.reg x).toNat / 10 % 10 ∧
        (t.mem.read (s.i.toNat + 2)).toNat = (s.reg x).toNat % 10 ∧
        MemKeptOutside s.i.toNat 3 s t ∧ Completed (s.pc + 2#16) t ∧ Frame [.memory] [] s t) ∧
    (0xFFF < s.i.toNat + 2 →
      ∃ t, exec (.ldB x) s = .next t ∧ TookFatal .memOutOfRange (some (encode (.ldB x))) s t) ∧
    (s.i.toNat ≤ 79 →
      ∃ t, exec (.ldB x) s = .next t ∧ TookFatal .protectedWrite (some (encode (.ldB x))) s t)

/-- LD [I], Vx stores V0..VX at I..I+X, and I is unchanged; the range is checked first (R218). -/
def Obligations.StoreRegistersAtIndex : Prop :=
  ∀ (x : Nibble) (s : State),
    (Instr.ldMemVx x).EncodedAs (0xF055 + x.toNat * 256) ∧
    (80 ≤ s.i.toNat → s.i.toNat + x.toNat ≤ 0xFFF →
      ∃ t, exec (.ldMemVx x) s = .next t ∧
        (∀ k : Nibble, k.toNat ≤ x.toNat → t.mem.read (s.i.toNat + k.toNat) = s.reg k) ∧
        MemKeptOutside s.i.toNat (x.toNat + 1) s t ∧ Completed (s.pc + 2#16) t ∧ Frame [.memory] [] s t) ∧
    (0xFFF < s.i.toNat + x.toNat →
      ∃ t, exec (.ldMemVx x) s = .next t ∧ TookFatal .memOutOfRange (some (encode (.ldMemVx x))) s t) ∧
    (s.i.toNat ≤ 79 →
      ∃ t, exec (.ldMemVx x) s = .next t ∧ TookFatal .protectedWrite (some (encode (.ldMemVx x))) s t)

/-- LD Vx, [I] loads V0..VX from I..I+X, from any existing address, and changes no other register (R220). -/
def Obligations.LoadRegistersFromIndex : Prop :=
  ∀ (x : Nibble) (s : State),
    (Instr.ldVxMem x).EncodedAs (0xF065 + x.toNat * 256) ∧
    (s.i.toNat + x.toNat ≤ 0xFFF →
      ∃ t, exec (.ldVxMem x) s = .next t ∧
        (∀ k : Nibble, k.toNat ≤ x.toNat → t.reg k = s.mem.read (s.i.toNat + k.toNat)) ∧
        Completed (s.pc + 2#16) t ∧ Frame [] (destRegs (.ldVxMem x)) s t ∧
        (∀ k : Nibble, k ∈ destRegs (.ldVxMem x) ↔ k.toNat ≤ x.toNat)) ∧
    (0xFFF < s.i.toNat + x.toNat →
      ∃ t, exec (.ldVxMem x) s = .next t ∧ TookFatal .memOutOfRange (some (encode (.ldVxMem x))) s t)

/-- What LD [I], Vx stored, LD Vx, [I] brings back: after both, whatever happened to the registers in between, V0..VX are
what they were (43_index_memory.md R218, R220). -/
def Obligations.StoredRegistersComeBack : Prop :=
  ∀ (x : Nibble) (s : State), 80 ≤ s.i.toNat → s.i.toNat + x.toNat ≤ 0xFFF →
    ∃ t, exec (.ldMemVx x) s = .next t ∧
      ∀ u : State, u.mem = t.mem → u.i = t.i →
        ∃ v, exec (.ldVxMem x) u = .next v ∧ ∀ k : Nibble, k.toNat ≤ x.toNat → v.reg k = s.reg k

/-! ### Display (44_display.md) -/

/-- CLS: every pixel dark and changed set (R250). -/
def Obligations.ClsDarkensEverything : Prop :=
  ∀ s : State,
    Instr.cls.EncodedAs 0x00E0 ∧
    ∃ t, exec .cls s = .next t ∧ (∀ px py, Framebuffer.pixel t.fb px py = false) ∧ t.changed = true ∧
      Completed (s.pc + 2#16) t ∧ Frame [.display] [] s t

/-- DRW inverts exactly the pixels its sprite has a set bit on, with both coordinates wrapped, sets changed, and VF tells
whether a lit pixel was erased, also when X or Y is F; with N = 0 it draws nothing and VF is 0. Sprite bytes past 0xFFF
raise MemOutOfRange (R252). -/
def Obligations.DrawXorsTheSprite : Prop :=
  ∀ (x y n : Nibble) (s : State),
    (Instr.drw x y n).EncodedAs (0xD000 + x.toNat * 256 + y.toNat * 16 + n.toNat) ∧
    ((n.toNat = 0 ∨ s.i.toNat + n.toNat - 1 ≤ 0xFFF) →
      ∃ t, exec (.drw x y n) s = .next t ∧
        (∀ px py, s.SpriteOn x y n px py → Framebuffer.pixel t.fb px py = !Framebuffer.pixel s.fb px py) ∧
        (∀ px py, ¬ s.SpriteOn x y n px py → Framebuffer.pixel t.fb px py = Framebuffer.pixel s.fb px py) ∧
        ((∃ px py, s.SpriteOn x y n px py ∧ Framebuffer.pixel s.fb px py = true) → t.reg 0xF#4 = 1#8) ∧
        ((¬ ∃ px py, s.SpriteOn x y n px py ∧ Framebuffer.pixel s.fb px py = true) → t.reg 0xF#4 = 0#8) ∧
        t.changed = true ∧ Completed (s.pc + 2#16) t ∧ Frame [.display] [0xF#4] s t) ∧
    (n.toNat ≠ 0 → 0xFFF < s.i.toNat + n.toNat - 1 →
      ∃ t, exec (.drw x y n) s = .next t ∧ TookFatal .memOutOfRange (some (encode (.drw x y n))) s t)

/-- Drawing the same sprite twice at the same coordinates restores the framebuffer, and the second draw's VF is 1 exactly
when the first draw lit a pixel (R253, which the spec derives from R242 and R243). The second draw may come at any later state
whose framebuffer is that after the first draw, and whose I, sprite bytes and coordinates are those of the first. -/
def Obligations.DrawingTwiceRestoresTheScreen : Prop :=
  ∀ (x y n : Nibble) (s : State), (n.toNat = 0 ∨ s.i.toNat + n.toNat - 1 ≤ 0xFFF) →
    ∃ t, exec (.drw x y n) s = .next t ∧
      ∀ u : State, u.fb = t.fb → u.i = s.i → u.reg x = s.reg x → u.reg y = s.reg y →
        (∀ r, r < n.toNat → u.mem.read (s.i.toNat + r) = s.mem.read (s.i.toNat + r)) →
        ∃ v, exec (.drw x y n) u = .next v ∧ v.fb = s.fb ∧
          (v.reg 0xF#4 = 1#8 ↔
            ∃ px py, Framebuffer.pixel s.fb px py = false ∧ Framebuffer.pixel t.fb px py = true)

/-! ### Timers and input (45_timers_input.md) -/

/-- FX07 reads DT, FX15 writes DT, FX18 writes ST, and none touches the other timer (R270, R271, R272). -/
def Obligations.TimerInstructionsMoveTheTimers : Prop :=
  ∀ (x : Nibble) (s : State),
    ((Instr.ldVxDt x).EncodedAs (0xF007 + x.toNat * 256) ∧
      ∃ t, exec (.ldVxDt x) s = .next t ∧ t.reg x = s.dt ∧ Completed (s.pc + 2#16) t ∧ Frame [] [x] s t) ∧
    ((Instr.ldDtVx x).EncodedAs (0xF015 + x.toNat * 256) ∧
      ∃ t, exec (.ldDtVx x) s = .next t ∧ t.dt = s.reg x ∧ t.st = s.st ∧ Completed (s.pc + 2#16) t ∧
        Frame [.timers] [] s t) ∧
    ((Instr.ldStVx x).EncodedAs (0xF018 + x.toNat * 256) ∧
      ∃ t, exec (.ldStVx x) s = .next t ∧ t.st = s.reg x ∧ t.dt = s.dt ∧ Completed (s.pc + 2#16) t ∧
        Frame [.timers] [] s t)

/-- FX0A enters AWAIT_KEY with the latch sampled and pc unchanged, even if a key is held (R290). -/
def Obligations.KeyWaitEntersWithoutCompleting : Prop :=
  ∀ (x : Nibble) (s : State),
    (Instr.ldVxK x).EncodedAs (0xF00A + x.toNat * 256) ∧
    ∃ t, exec (.ldVxK x) s = .next t ∧ t.runState = .awaitKey ∧ t.waitX = x ∧ t.waitPrev = s.keys ∧ t.fault = s.fault ∧
      Completed s.pc t ∧ Frame [.control] [] s t

/-- A Step in AWAIT_KEY, named byte or not: with no key newly pressed it remembers the latch and waits on; otherwise the least newly pressed key
goes to V[wait_x], pc moves past the instruction and the block runs, with wait_x and wait_prev as they were (R291). -/
def Obligations.KeyWaitPollCompletesOnANewKey : Prop :=
  ∀ s : State, s.NextIsStep → s.runState = .awaitKey →
    ((∀ k, ¬ s.NewlyPressed k) → step s = .next { s.stepDone with waitPrev := s.keys, response := .step .ok }) ∧
    (∀ k : Nibble, s.NewlyPressed k → (∀ j : Nibble, j.toNat < k.toNat → ¬ s.NewlyPressed j) →
      ∃ t, step s = .next t ∧ (t.reg s.waitX).toNat = k.toNat ∧ t.runState = .running ∧ t.fault = s.fault ∧
        t.waitX = s.waitX ∧ t.waitPrev = s.waitPrev ∧ Completed (s.pc + 2#16) t ∧ Frame [.control] [s.waitX] s.stepDone t)

/-- A suspended wait ends only by a key press or by Reset: while no key is newly pressed, any step but those leaves the block
waiting at the same pc, with still no key newly pressed (R292, which the spec derives, and R343). -/
def Obligations.WaitNeedsAPressOrAReset : Prop :=
  ∀ s t : State, s.runState = .awaitKey → (∀ k, ¬ s.NewlyPressed k) →
    (∀ u, s.pending.head? = some u → u ≠ .reset ∧ u.presses = false) → step s = .next t →
    t.runState = .awaitKey ∧ t.pc = s.pc ∧ t.v = s.v ∧ t.mem = s.mem ∧ ∀ k, ¬ t.NewlyPressed k
end

