-- ==== Sys2Proof/Laws/Codec.lean ====
section
/-! SUPPORT. The fields of a word and the formats, as numbers (30_encoding.md R102, R103), and bytes of words (20_memory.md R77). -/

namespace Sys2Proof

/-! ### Formats as numbers -/

theorem toNat_append_eq {m n : Nat} (a : BitVec m) (b : BitVec n) : (a ++ b).toNat = a.toNat * 2 ^ n + b.toNat := by
  rw [BitVec.toNat_append, ← Nat.shiftLeft_add_eq_or_of_lt b.isLt, Nat.shiftLeft_eq]

theorem formatA_toNat (f : Nibble) (nnn : Addr) : (formatA f nnn).toNat = f.toNat * 4096 + nnn.toNat :=
  toNat_append_eq f nnn

theorem formatXNN_toNat (f x : Nibble) (nn : Byte) :
    (formatXNN f x nn).toNat = f.toNat * 4096 + x.toNat * 256 + nn.toNat := by
  have h : (formatXNN f x nn).toNat = (f ++ x).toNat * 256 + nn.toNat := toNat_append_eq (f ++ x) nn
  rw [h, toNat_append_eq f x]
  omega

theorem formatXYN_toNat (f x y n : Nibble) :
    (formatXYN f x y n).toNat = f.toNat * 4096 + x.toNat * 256 + y.toNat * 16 + n.toNat := by
  have h : (formatXYN f x y n).toNat = (f ++ x ++ y).toNat * 16 + n.toNat := toNat_append_eq (f ++ x ++ y) n
  rw [h, toNat_append_eq (f ++ x) y, toNat_append_eq f x]
  omega

/-! ### Fields as numbers -/

theorem fieldF_toNat (w : Word) : (fieldF w).toNat = w.toNat / 4096 := by
  simp [fieldF, Nat.shiftRight_eq_div_pow]; omega
theorem fieldX_toNat (w : Word) : (fieldX w).toNat = w.toNat / 256 % 16 := by simp [fieldX, Nat.shiftRight_eq_div_pow]
theorem fieldY_toNat (w : Word) : (fieldY w).toNat = w.toNat / 16 % 16 := by simp [fieldY, Nat.shiftRight_eq_div_pow]
theorem fieldN_toNat (w : Word) : (fieldN w).toNat = w.toNat % 16 := by simp [fieldN]
theorem fieldNN_toNat (w : Word) : (fieldNN w).toNat = w.toNat % 256 := by simp [fieldNN]
theorem fieldNNN_toNat (w : Word) : (fieldNNN w).toNat = w.toNat % 4096 := by simp [fieldNNN]

/-! ### The fields of a format -/

variable (f x y n : Nibble) (nn : Byte) (nnn : Addr)

@[simp] theorem fieldF_formatA : fieldF (formatA f nnn) = f :=
  BitVec.eq_of_toNat_eq (by rw [fieldF_toNat, formatA_toNat]; omega)
@[simp] theorem fieldNNN_formatA : fieldNNN (formatA f nnn) = nnn :=
  BitVec.eq_of_toNat_eq (by rw [fieldNNN_toNat, formatA_toNat]; omega)
@[simp] theorem fieldF_formatXNN : fieldF (formatXNN f x nn) = f :=
  BitVec.eq_of_toNat_eq (by rw [fieldF_toNat, formatXNN_toNat]; omega)
@[simp] theorem fieldX_formatXNN : fieldX (formatXNN f x nn) = x :=
  BitVec.eq_of_toNat_eq (by rw [fieldX_toNat, formatXNN_toNat]; omega)
@[simp] theorem fieldNN_formatXNN : fieldNN (formatXNN f x nn) = nn :=
  BitVec.eq_of_toNat_eq (by rw [fieldNN_toNat, formatXNN_toNat]; omega)
@[simp] theorem fieldF_formatXYN : fieldF (formatXYN f x y n) = f :=
  BitVec.eq_of_toNat_eq (by rw [fieldF_toNat, formatXYN_toNat]; omega)
@[simp] theorem fieldX_formatXYN : fieldX (formatXYN f x y n) = x :=
  BitVec.eq_of_toNat_eq (by rw [fieldX_toNat, formatXYN_toNat]; omega)
@[simp] theorem fieldY_formatXYN : fieldY (formatXYN f x y n) = y :=
  BitVec.eq_of_toNat_eq (by rw [fieldY_toNat, formatXYN_toNat]; omega)
@[simp] theorem fieldN_formatXYN : fieldN (formatXYN f x y n) = n :=
  BitVec.eq_of_toNat_eq (by rw [fieldN_toNat, formatXYN_toNat]; omega)

/-! ### Every word is its fields -/

theorem formatA_fields (w : Word) : formatA (fieldF w) (fieldNNN w) = w :=
  BitVec.eq_of_toNat_eq (by rw [formatA_toNat, fieldF_toNat, fieldNNN_toNat]; omega)
theorem formatXNN_fields (w : Word) : formatXNN (fieldF w) (fieldX w) (fieldNN w) = w :=
  BitVec.eq_of_toNat_eq (by rw [formatXNN_toNat, fieldF_toNat, fieldX_toNat, fieldNN_toNat]; omega)
theorem formatXYN_fields (w : Word) : formatXYN (fieldF w) (fieldX w) (fieldY w) (fieldN w) = w :=
  BitVec.eq_of_toNat_eq (by rw [formatXYN_toNat, fieldF_toNat, fieldX_toNat, fieldY_toNat, fieldN_toNat]; omega)

/-! ### Bytes of words -/

/-- Big-endian: the first byte is the high one (R76, R77). -/
theorem wordOfBytes_toNat (hi lo : Byte) : (wordOfBytes hi lo).toNat = hi.toNat * 256 + lo.toNat := by
  have e : hi.toNat <<< 8 ||| lo.toNat = hi.toNat * 256 + lo.toNat := by
    rw [← Nat.shiftLeft_add_eq_or_of_lt (show lo.toNat < 2 ^ 8 from lo.isLt), Nat.shiftLeft_eq]
  have h1 := hi.isLt
  have h2 := lo.isLt
  simp only [wordOfBytes, BitVec.toNat_or, BitVec.toNat_shiftLeft, BitVec.toNat_setWidth]
  rw [Nat.mod_eq_of_lt (by omega : hi.toNat < 2 ^ 16), Nat.mod_eq_of_lt (by omega : lo.toNat < 2 ^ 16),
    Nat.mod_eq_of_lt (by rw [Nat.shiftLeft_eq]; omega), e]

theorem wordOfBytes_bytesOfWord (w : Word) : wordOfBytes (w.extractLsb' 8 8) (w.extractLsb' 0 8) = w := by
  apply BitVec.eq_of_toNat_eq
  rw [wordOfBytes_toNat]
  simp [Nat.shiftRight_eq_div_pow]
  omega

@[simp] theorem decodeBytes_bytesOfWord (w : Word) (rest : List Byte) :
    decodeBytes (bytesOfWord w ++ rest) =
      match decode w with
      | .ok i => .ok (i, rest)
      | .error why => .error (.unknown why) := by
  cases h : decode w <;> simp [bytesOfWord, decodeBytes, wordOfBytes_bytesOfWord, h]

end Sys2Proof
end

