-- ==== Sys2Proof/Laws/Memory.lean ====
section
/-! SUPPORT. Memory: a read after a write, the canonical form, ranges, and the range checks (20_memory.md). -/

namespace Sys2Proof.Machine

namespace Memory

/-! ### One byte -/

theorem read_insert (m : Memory) (a c : Nat) (b : Byte) : (insert a b m).read c = if c = a then b else m.read c := by
  induction m with
  | nil => simp [insert, read, eq_comm (a := a)]
  | cons e m ih =>
    obtain ⟨d, x⟩ := e
    simp only [insert]
    split
    · simp only [read, eq_comm (a := a)]
    · split
      · subst_vars
        by_cases h : d = c <;> simp [read, h, Ne.symm]
      · by_cases h : d = c
        · subst h
          simp [read]
          omega
        · simp [read, h, ih]

theorem read_erase (m : Memory) (a c : Nat) : (erase a m).read c = if c = a then unlistedByte c else m.read c := by
  induction m with
  | nil => simp [erase, read]
  | cons e m ih =>
    obtain ⟨d, x⟩ := e
    simp only [erase] at ih ⊢
    by_cases h : d = a
    · subst h
      rw [List.filter_cons_of_neg (by simp), ih]
      by_cases hc : c = d
      · simp [hc]
      · simp [hc, read, Ne.symm hc]
    · rw [List.filter_cons_of_pos (by simpa using h)]
      by_cases hc : d = c
      · subst hc; simp [read, h]
      · simp [read, hc, ih]

/-- A read after a write: the byte written there, and every other address as before. -/
theorem read_write (m : Memory) (a c : Nat) (b : Byte) : (m.write a b).read c = if c = a then b else m.read c := by
  unfold write
  split
  · rw [read_erase]
    split <;> simp_all
  · exact read_insert m a c b

@[simp] theorem read_write_same (m : Memory) (a : Nat) (b : Byte) : (m.write a b).read a = b := by simp [read_write]

theorem read_write_other (m : Memory) {a c : Nat} (b : Byte) (h : c ≠ a) : (m.write a b).read c = m.read c := by
  simp [read_write, h]

/-! ### The canonical form -/

theorem nil_wf : Wf [] := by simp [Wf]

theorem erase_wf {m : Memory} (h : m.Wf) (a : Nat) : (erase a m).Wf :=
  ⟨h.1.filter _, fun c hc => h.2 c (List.mem_of_mem_filter hc)⟩

theorem mem_insert {m : Memory} {a : Nat} {b : Byte} {e : Host.Cell} (h : e ∈ insert a b m) : e = (a, b) ∨ e ∈ m := by
  induction m with
  | nil => simpa [insert] using h
  | cons d m ih =>
    obtain ⟨c, x⟩ := d
    simp only [insert] at h
    split at h
    · simpa using h
    · split at h
      · rcases List.mem_cons.1 h with h | h <;> simp [h]
      · rcases List.mem_cons.1 h with h | h
        · simp [h]
        · rcases ih h with h | h <;> simp [h]

theorem insert_rising {m : Memory} {a : Nat} {b : Byte} (h : List.Pairwise (fun c d : Host.Cell => c.1 < d.1) m) :
    List.Pairwise (fun c d : Host.Cell => c.1 < d.1) (insert a b m) := by
  induction m with
  | nil => simp [insert]
  | cons d m ih =>
    obtain ⟨c, x⟩ := d
    rw [List.pairwise_cons] at h
    simp only [insert]
    split
    · rename_i hlt
      refine List.pairwise_cons.2 ⟨fun e he => ?_, List.pairwise_cons.2 h⟩
      rcases List.mem_cons.1 he with he | he
      · simpa [he] using hlt
      · exact lt_trans hlt (h.1 e he)
    · split
      · rename_i heq
        exact List.pairwise_cons.2 ⟨fun e he => by simpa [heq] using h.1 e he, h.2⟩
      · refine List.pairwise_cons.2 ⟨fun e he => ?_, ih h.2⟩
        rcases mem_insert he with he | he
        · simp only [he]; omega
        · exact h.1 e he

/-- A write of an address that exists keeps the canonical form. -/
theorem write_wf {m : Memory} (h : m.Wf) {a : Nat} (ha : isMemAddr a = true) (b : Byte) : (m.write a b).Wf := by
  unfold write
  split
  · exact erase_wf h a
  · refine ⟨insert_rising h.1, fun e he => ?_⟩
    rcases mem_insert he with he | he
    · subst he; exact ⟨ha, by assumption⟩
    · exact h.2 e he

/-- Canonical memories that read alike are the same data. -/
theorem eq_of_read_eq : ∀ {m n : Memory}, m.Wf → n.Wf → (∀ a, m.read a = n.read a) → m = n := by
  have low : ∀ {m : Memory} {a : Nat}, (∀ e ∈ m, a < e.1) → m.read a = unlistedByte a := by
    intro m a h
    induction m with
    | nil => rfl
    | cons e m ih =>
      obtain ⟨c, x⟩ := e
      have hc : a < c := h (c, x) (by simp)
      simp only [read, if_neg (by omega : ¬ c = a)]
      exact ih fun e he => h e (by simp [he])
  intro m
  induction m with
  | nil =>
    intro n _ hn h
    cases n with
    | nil => rfl
    | cons e n =>
      have := h e.1
      simp only [read, if_true] at this
      exact absurd this.symm (hn.2 e (by simp)).2
  | cons e m ih =>
    intro n hm hn h
    cases n with
    | nil =>
      have := h e.1
      simp only [read, if_true] at this
      exact absurd this (hm.2 e (by simp)).2
    | cons f n =>
      obtain ⟨a, x⟩ := e
      obtain ⟨c, y⟩ := f
      have hm1 := List.pairwise_cons.1 hm.1
      have hn1 := List.pairwise_cons.1 hn.1
      have hac : a = c := by
        rcases Nat.lt_trichotomy a c with hlt | heq | hgt
        · have ha := h a
          simp only [read, if_true, if_neg (by omega : ¬ c = a)] at ha
          rw [low fun e he => lt_trans hlt (hn1.1 e he)] at ha
          exact absurd ha (hm.2 (a, x) (by simp)).2
        · exact heq
        · have hc := h c
          simp only [read, if_true, if_neg (by omega : ¬ a = c)] at hc
          rw [low fun e he => lt_trans hgt (hm1.1 e he)] at hc
          exact absurd hc.symm (hn.2 (c, y) (by simp)).2
      subst hac
      have hxy : x = y := by simpa [read] using h a
      subst hxy
      congr 1
      refine ih ⟨hm1.2, fun e he => hm.2 e (by simp [he])⟩ ⟨hn1.2, fun e he => hn.2 e (by simp [he])⟩ fun b => ?_
      by_cases hb : a = b
      · subst hb; rw [low hm1.1, low hn1.1]
      · simpa [read, hb] using h b

/-! ### Ranges -/

@[simp] theorem readRange_length (m : Memory) (base n : Nat) : (m.readRange base n).length = n := by simp [readRange]

theorem readRange_getElem (m : Memory) (base n k : Nat) (h : k < (m.readRange base n).length) :
    (m.readRange base n)[k] = m.read (base + k) := by simp [readRange]

theorem readRange_getD (m : Memory) (base n k : Nat) (h : k < n) : (m.readRange base n).getD k 0x00#8 = m.read (base + k) := by
  rw [List.getD_eq_getElem _ _ (by simpa using h), readRange_getElem]

/-- A range read only depends on its bytes. -/
theorem readRange_congr {m m' : Memory} (h : ∀ a, m'.read a = m.read a) (base n : Nat) :
    m'.readRange base n = m.readRange base n := by simp [readRange, h]

/-- A range write: byte `k` at `base + k`, and every other address as before (R75). -/
theorem read_writeRange (bs : List Byte) (m : Memory) (base a : Nat) :
    (m.writeRange base bs).read a =
      if base ≤ a ∧ a < base + bs.length then bs.getD (a - base) 0x00#8 else m.read a := by
  induction bs generalizing m base with
  | nil => simp [writeRange, show ¬ (base ≤ a ∧ a < base) by omega]
  | cons b bs ih =>
    rw [writeRange, ih, read_write]
    simp only [List.length_cons]
    by_cases h1 : a = base
    · simp [h1]
    · by_cases h2 : base + 1 ≤ a ∧ a < base + 1 + bs.length
      · have e : a - base = (a - (base + 1)) + 1 := by omega
        rw [if_pos h2, if_pos (by omega), e, List.getD_cons_succ]
      · rw [if_neg h2, if_neg h1, if_neg (by omega)]

theorem read_writeRange_outside (bs : List Byte) (m : Memory) {base a : Nat} (h : a < base ∨ base + bs.length ≤ a) :
    (m.writeRange base bs).read a = m.read a := by
  rw [read_writeRange, if_neg (by omega)]

theorem read_writeRange_at (bs : List Byte) (m : Memory) (base : Nat) {k : Nat} (h : k < bs.length) :
    (m.writeRange base bs).read (base + k) = bs[k] := by
  rw [read_writeRange, if_pos (by omega), Nat.add_sub_cancel_left, List.getD_eq_getElem _ _ h]

/-- A range write of addresses that exist keeps the canonical form. -/
theorem writeRange_wf (bs : List Byte) {m : Memory} (h : m.Wf) {base : Nat} (hb : base + bs.length ≤ Config.memSize) :
    (m.writeRange base bs).Wf := by
  induction bs generalizing m base with
  | nil => exact h
  | cons b bs ih =>
    simp only [List.length_cons] at hb
    exact ih (write_wf h (decide_eq_true (by omega)) b) (by omega)

end Memory

/-! ### The range checks -/

theorem isFontAddr_iff (a : Nat) : isFontAddr a = true ↔ a < 80 := by simp [isFontAddr, fontBase, fontSize]

theorem isMemAddr_iff (a : Nat) : isMemAddr a = true ↔ a < 0x1000 := decide_eq_true_iff

/-- Some byte of the range does not exist. -/
theorem any_outside_iff (base n : Nat) :
    (addresses base n).any (fun a => !isMemAddr a) = true ↔ 0 < n ∧ 0xFFF < base + n - 1 := by
  have : (addresses base n).any (fun a => !isMemAddr a) = true ↔ ∃ k, k < n ∧ 0x1000 ≤ base + k := by
    simp [addresses, ← Bool.not_eq_true, isMemAddr_iff]
  rw [this]
  exact ⟨fun ⟨k, hk, h⟩ => by omega, fun ⟨hn, h⟩ => ⟨n - 1, by omega, by omega⟩⟩

/-- Some byte of the range is a font byte. -/
theorem any_font_iff (base n : Nat) : (addresses base n).any isFontAddr = true ↔ 0 < n ∧ base < 80 := by
  have : (addresses base n).any isFontAddr = true ↔ ∃ k, k < n ∧ base + k < 80 := by
    simp [addresses, isFontAddr_iff]
  rw [this]
  exact ⟨fun ⟨k, hk, h⟩ => by omega, fun ⟨hn, h⟩ => ⟨0, by omega, by omega⟩⟩

/-- The read check raises MemOutOfRange exactly when the last byte is above 0xFFF (R73, R215). -/
theorem checkRead_eq (base n : Nat) :
    checkRead base n = if 0 < n ∧ 0xFFF < base + n - 1 then some .memOutOfRange else none := by
  simp only [checkRead, any_outside_iff]

theorem checkRead_eq_none (base n : Nat) : checkRead base n = none ↔ (n = 0 ∨ base + n ≤ 0x1000) := by
  rw [checkRead_eq]; split <;> simp <;> omega

/-- The write check: MemOutOfRange, then ProtectedWrite where the range meets the font table (R74, R215). -/
theorem checkWrite_eq (base n : Nat) :
    checkWrite base n = if 0 < n ∧ 0xFFF < base + n - 1 then some .memOutOfRange
      else if 0 < n ∧ base < 80 then some .protectedWrite else none := by
  simp only [checkWrite, any_outside_iff, any_font_iff]

theorem checkWrite_eq_none (base n : Nat) : checkWrite base n = none ↔ (n = 0 ∨ (80 ≤ base ∧ base + n ≤ 0x1000)) := by
  rw [checkWrite_eq]
  split
  · simp; omega
  · split <;> simp <;> omega

end Sys2Proof.Machine
end

