-- ==== Sys2Proof/Laws/State.lean ====
section
/-! SUPPORT. One lemma per field per update of the state, so that no later proof unfolds a record update. -/

namespace Sys2Proof.Machine.State

variable (s : State)

/-! ### setReg: `V[x] <- b` -/

@[simp] theorem setReg_v (x : Nibble) (b : Byte) : (s.setReg x b).v = s.v.set x.toNat b x.isLt := rfl
@[simp] theorem setReg_i (x : Nibble) (b : Byte) : (s.setReg x b).i = s.i := rfl
@[simp] theorem setReg_pc (x : Nibble) (b : Byte) : (s.setReg x b).pc = s.pc := rfl
@[simp] theorem setReg_stack (x : Nibble) (b : Byte) : (s.setReg x b).stack = s.stack := rfl
@[simp] theorem setReg_sp (x : Nibble) (b : Byte) : (s.setReg x b).sp = s.sp := rfl
@[simp] theorem setReg_dt (x : Nibble) (b : Byte) : (s.setReg x b).dt = s.dt := rfl
@[simp] theorem setReg_st (x : Nibble) (b : Byte) : (s.setReg x b).st = s.st := rfl
@[simp] theorem setReg_fb (x : Nibble) (b : Byte) : (s.setReg x b).fb = s.fb := rfl
@[simp] theorem setReg_changed (x : Nibble) (b : Byte) : (s.setReg x b).changed = s.changed := rfl
@[simp] theorem setReg_mem (x : Nibble) (b : Byte) : (s.setReg x b).mem = s.mem := rfl
@[simp] theorem setReg_keys (x : Nibble) (b : Byte) : (s.setReg x b).keys = s.keys := rfl
@[simp] theorem setReg_runState (x : Nibble) (b : Byte) : (s.setReg x b).runState = s.runState := rfl
@[simp] theorem setReg_waitX (x : Nibble) (b : Byte) : (s.setReg x b).waitX = s.waitX := rfl
@[simp] theorem setReg_waitPrev (x : Nibble) (b : Byte) : (s.setReg x b).waitPrev = s.waitPrev := rfl
@[simp] theorem setReg_fault (x : Nibble) (b : Byte) : (s.setReg x b).fault = s.fault := rfl
@[simp] theorem setReg_response (x : Nibble) (b : Byte) : (s.setReg x b).response = s.response := rfl
@[simp] theorem setReg_pending (x : Nibble) (b : Byte) : (s.setReg x b).pending = s.pending := rfl
@[simp] theorem setReg_randomIn (x : Nibble) (b : Byte) : (s.setReg x b).randomIn = s.randomIn := rfl
@[simp] theorem setReg_draws (x : Nibble) (b : Byte) : (s.setReg x b).draws = s.draws := rfl

/-! ### setIndex: `I <- a` -/

@[simp] theorem setIndex_v (a : Word) : (s.setIndex a).v = s.v := rfl
@[simp] theorem setIndex_i (a : Word) : (s.setIndex a).i = a := rfl
@[simp] theorem setIndex_pc (a : Word) : (s.setIndex a).pc = s.pc := rfl
@[simp] theorem setIndex_stack (a : Word) : (s.setIndex a).stack = s.stack := rfl
@[simp] theorem setIndex_sp (a : Word) : (s.setIndex a).sp = s.sp := rfl
@[simp] theorem setIndex_dt (a : Word) : (s.setIndex a).dt = s.dt := rfl
@[simp] theorem setIndex_st (a : Word) : (s.setIndex a).st = s.st := rfl
@[simp] theorem setIndex_fb (a : Word) : (s.setIndex a).fb = s.fb := rfl
@[simp] theorem setIndex_changed (a : Word) : (s.setIndex a).changed = s.changed := rfl
@[simp] theorem setIndex_mem (a : Word) : (s.setIndex a).mem = s.mem := rfl
@[simp] theorem setIndex_keys (a : Word) : (s.setIndex a).keys = s.keys := rfl
@[simp] theorem setIndex_runState (a : Word) : (s.setIndex a).runState = s.runState := rfl
@[simp] theorem setIndex_waitX (a : Word) : (s.setIndex a).waitX = s.waitX := rfl
@[simp] theorem setIndex_waitPrev (a : Word) : (s.setIndex a).waitPrev = s.waitPrev := rfl
@[simp] theorem setIndex_fault (a : Word) : (s.setIndex a).fault = s.fault := rfl
@[simp] theorem setIndex_response (a : Word) : (s.setIndex a).response = s.response := rfl
@[simp] theorem setIndex_pending (a : Word) : (s.setIndex a).pending = s.pending := rfl
@[simp] theorem setIndex_randomIn (a : Word) : (s.setIndex a).randomIn = s.randomIn := rfl
@[simp] theorem setIndex_draws (a : Word) : (s.setIndex a).draws = s.draws := rfl

/-! ### setDelay: `DT <- b` -/

@[simp] theorem setDelay_v (b : Byte) : (s.setDelay b).v = s.v := rfl
@[simp] theorem setDelay_i (b : Byte) : (s.setDelay b).i = s.i := rfl
@[simp] theorem setDelay_pc (b : Byte) : (s.setDelay b).pc = s.pc := rfl
@[simp] theorem setDelay_stack (b : Byte) : (s.setDelay b).stack = s.stack := rfl
@[simp] theorem setDelay_sp (b : Byte) : (s.setDelay b).sp = s.sp := rfl
@[simp] theorem setDelay_dt (b : Byte) : (s.setDelay b).dt = b := rfl
@[simp] theorem setDelay_st (b : Byte) : (s.setDelay b).st = s.st := rfl
@[simp] theorem setDelay_fb (b : Byte) : (s.setDelay b).fb = s.fb := rfl
@[simp] theorem setDelay_changed (b : Byte) : (s.setDelay b).changed = s.changed := rfl
@[simp] theorem setDelay_mem (b : Byte) : (s.setDelay b).mem = s.mem := rfl
@[simp] theorem setDelay_keys (b : Byte) : (s.setDelay b).keys = s.keys := rfl
@[simp] theorem setDelay_runState (b : Byte) : (s.setDelay b).runState = s.runState := rfl
@[simp] theorem setDelay_waitX (b : Byte) : (s.setDelay b).waitX = s.waitX := rfl
@[simp] theorem setDelay_waitPrev (b : Byte) : (s.setDelay b).waitPrev = s.waitPrev := rfl
@[simp] theorem setDelay_fault (b : Byte) : (s.setDelay b).fault = s.fault := rfl
@[simp] theorem setDelay_response (b : Byte) : (s.setDelay b).response = s.response := rfl
@[simp] theorem setDelay_pending (b : Byte) : (s.setDelay b).pending = s.pending := rfl
@[simp] theorem setDelay_randomIn (b : Byte) : (s.setDelay b).randomIn = s.randomIn := rfl
@[simp] theorem setDelay_draws (b : Byte) : (s.setDelay b).draws = s.draws := rfl

/-! ### setSound: `ST <- b` -/

@[simp] theorem setSound_v (b : Byte) : (s.setSound b).v = s.v := rfl
@[simp] theorem setSound_i (b : Byte) : (s.setSound b).i = s.i := rfl
@[simp] theorem setSound_pc (b : Byte) : (s.setSound b).pc = s.pc := rfl
@[simp] theorem setSound_stack (b : Byte) : (s.setSound b).stack = s.stack := rfl
@[simp] theorem setSound_sp (b : Byte) : (s.setSound b).sp = s.sp := rfl
@[simp] theorem setSound_dt (b : Byte) : (s.setSound b).dt = s.dt := rfl
@[simp] theorem setSound_st (b : Byte) : (s.setSound b).st = b := rfl
@[simp] theorem setSound_fb (b : Byte) : (s.setSound b).fb = s.fb := rfl
@[simp] theorem setSound_changed (b : Byte) : (s.setSound b).changed = s.changed := rfl
@[simp] theorem setSound_mem (b : Byte) : (s.setSound b).mem = s.mem := rfl
@[simp] theorem setSound_keys (b : Byte) : (s.setSound b).keys = s.keys := rfl
@[simp] theorem setSound_runState (b : Byte) : (s.setSound b).runState = s.runState := rfl
@[simp] theorem setSound_waitX (b : Byte) : (s.setSound b).waitX = s.waitX := rfl
@[simp] theorem setSound_waitPrev (b : Byte) : (s.setSound b).waitPrev = s.waitPrev := rfl
@[simp] theorem setSound_fault (b : Byte) : (s.setSound b).fault = s.fault := rfl
@[simp] theorem setSound_response (b : Byte) : (s.setSound b).response = s.response := rfl
@[simp] theorem setSound_pending (b : Byte) : (s.setSound b).pending = s.pending := rfl
@[simp] theorem setSound_randomIn (b : Byte) : (s.setSound b).randomIn = s.randomIn := rfl
@[simp] theorem setSound_draws (b : Byte) : (s.setSound b).draws = s.draws := rfl

/-! ### setMem: memory -/

@[simp] theorem setMem_v (m : Memory) : (s.setMem m).v = s.v := rfl
@[simp] theorem setMem_i (m : Memory) : (s.setMem m).i = s.i := rfl
@[simp] theorem setMem_pc (m : Memory) : (s.setMem m).pc = s.pc := rfl
@[simp] theorem setMem_stack (m : Memory) : (s.setMem m).stack = s.stack := rfl
@[simp] theorem setMem_sp (m : Memory) : (s.setMem m).sp = s.sp := rfl
@[simp] theorem setMem_dt (m : Memory) : (s.setMem m).dt = s.dt := rfl
@[simp] theorem setMem_st (m : Memory) : (s.setMem m).st = s.st := rfl
@[simp] theorem setMem_fb (m : Memory) : (s.setMem m).fb = s.fb := rfl
@[simp] theorem setMem_changed (m : Memory) : (s.setMem m).changed = s.changed := rfl
@[simp] theorem setMem_mem (m : Memory) : (s.setMem m).mem = m := rfl
@[simp] theorem setMem_keys (m : Memory) : (s.setMem m).keys = s.keys := rfl
@[simp] theorem setMem_runState (m : Memory) : (s.setMem m).runState = s.runState := rfl
@[simp] theorem setMem_waitX (m : Memory) : (s.setMem m).waitX = s.waitX := rfl
@[simp] theorem setMem_waitPrev (m : Memory) : (s.setMem m).waitPrev = s.waitPrev := rfl
@[simp] theorem setMem_fault (m : Memory) : (s.setMem m).fault = s.fault := rfl
@[simp] theorem setMem_response (m : Memory) : (s.setMem m).response = s.response := rfl
@[simp] theorem setMem_pending (m : Memory) : (s.setMem m).pending = s.pending := rfl
@[simp] theorem setMem_randomIn (m : Memory) : (s.setMem m).randomIn = s.randomIn := rfl
@[simp] theorem setMem_draws (m : Memory) : (s.setMem m).draws = s.draws := rfl

/-! ### setDisplay: framebuffer and changed -/

@[simp] theorem setDisplay_v (f : Framebuffer) (c : Bool) : (s.setDisplay f c).v = s.v := rfl
@[simp] theorem setDisplay_i (f : Framebuffer) (c : Bool) : (s.setDisplay f c).i = s.i := rfl
@[simp] theorem setDisplay_pc (f : Framebuffer) (c : Bool) : (s.setDisplay f c).pc = s.pc := rfl
@[simp] theorem setDisplay_stack (f : Framebuffer) (c : Bool) : (s.setDisplay f c).stack = s.stack := rfl
@[simp] theorem setDisplay_sp (f : Framebuffer) (c : Bool) : (s.setDisplay f c).sp = s.sp := rfl
@[simp] theorem setDisplay_dt (f : Framebuffer) (c : Bool) : (s.setDisplay f c).dt = s.dt := rfl
@[simp] theorem setDisplay_st (f : Framebuffer) (c : Bool) : (s.setDisplay f c).st = s.st := rfl
@[simp] theorem setDisplay_fb (f : Framebuffer) (c : Bool) : (s.setDisplay f c).fb = f := rfl
@[simp] theorem setDisplay_changed (f : Framebuffer) (c : Bool) : (s.setDisplay f c).changed = c := rfl
@[simp] theorem setDisplay_mem (f : Framebuffer) (c : Bool) : (s.setDisplay f c).mem = s.mem := rfl
@[simp] theorem setDisplay_keys (f : Framebuffer) (c : Bool) : (s.setDisplay f c).keys = s.keys := rfl
@[simp] theorem setDisplay_runState (f : Framebuffer) (c : Bool) : (s.setDisplay f c).runState = s.runState := rfl
@[simp] theorem setDisplay_waitX (f : Framebuffer) (c : Bool) : (s.setDisplay f c).waitX = s.waitX := rfl
@[simp] theorem setDisplay_waitPrev (f : Framebuffer) (c : Bool) : (s.setDisplay f c).waitPrev = s.waitPrev := rfl
@[simp] theorem setDisplay_fault (f : Framebuffer) (c : Bool) : (s.setDisplay f c).fault = s.fault := rfl
@[simp] theorem setDisplay_response (f : Framebuffer) (c : Bool) : (s.setDisplay f c).response = s.response := rfl
@[simp] theorem setDisplay_pending (f : Framebuffer) (c : Bool) : (s.setDisplay f c).pending = s.pending := rfl
@[simp] theorem setDisplay_randomIn (f : Framebuffer) (c : Bool) : (s.setDisplay f c).randomIn = s.randomIn := rfl
@[simp] theorem setDisplay_draws (f : Framebuffer) (c : Bool) : (s.setDisplay f c).draws = s.draws := rfl

/-! ### drawn: the draw counter -/

@[simp] theorem drawn_v : (s.drawn).v = s.v := rfl
@[simp] theorem drawn_i : (s.drawn).i = s.i := rfl
@[simp] theorem drawn_pc : (s.drawn).pc = s.pc := rfl
@[simp] theorem drawn_stack : (s.drawn).stack = s.stack := rfl
@[simp] theorem drawn_sp : (s.drawn).sp = s.sp := rfl
@[simp] theorem drawn_dt : (s.drawn).dt = s.dt := rfl
@[simp] theorem drawn_st : (s.drawn).st = s.st := rfl
@[simp] theorem drawn_fb : (s.drawn).fb = s.fb := rfl
@[simp] theorem drawn_changed : (s.drawn).changed = s.changed := rfl
@[simp] theorem drawn_mem : (s.drawn).mem = s.mem := rfl
@[simp] theorem drawn_keys : (s.drawn).keys = s.keys := rfl
@[simp] theorem drawn_runState : (s.drawn).runState = s.runState := rfl
@[simp] theorem drawn_waitX : (s.drawn).waitX = s.waitX := rfl
@[simp] theorem drawn_waitPrev : (s.drawn).waitPrev = s.waitPrev := rfl
@[simp] theorem drawn_fault : (s.drawn).fault = s.fault := rfl
@[simp] theorem drawn_response : (s.drawn).response = s.response := rfl
@[simp] theorem drawn_pending : (s.drawn).pending = s.pending := rfl
@[simp] theorem drawn_randomIn : (s.drawn).randomIn = s.randomIn := rfl
@[simp] theorem drawn_draws : (s.drawn).draws = s.draws + 1 := rfl

/-! ### finish: the end of an instruction -/

@[simp] theorem finish_v (a : Word) : (s.finish a).v = s.v := rfl
@[simp] theorem finish_i (a : Word) : (s.finish a).i = s.i := rfl
@[simp] theorem finish_pc (a : Word) : (s.finish a).pc = a := rfl
@[simp] theorem finish_stack (a : Word) : (s.finish a).stack = s.stack := rfl
@[simp] theorem finish_sp (a : Word) : (s.finish a).sp = s.sp := rfl
@[simp] theorem finish_dt (a : Word) : (s.finish a).dt = s.dt := rfl
@[simp] theorem finish_st (a : Word) : (s.finish a).st = s.st := rfl
@[simp] theorem finish_fb (a : Word) : (s.finish a).fb = s.fb := rfl
@[simp] theorem finish_changed (a : Word) : (s.finish a).changed = s.changed := rfl
@[simp] theorem finish_mem (a : Word) : (s.finish a).mem = s.mem := rfl
@[simp] theorem finish_keys (a : Word) : (s.finish a).keys = s.keys := rfl
@[simp] theorem finish_runState (a : Word) : (s.finish a).runState = s.runState := rfl
@[simp] theorem finish_waitX (a : Word) : (s.finish a).waitX = s.waitX := rfl
@[simp] theorem finish_waitPrev (a : Word) : (s.finish a).waitPrev = s.waitPrev := rfl
@[simp] theorem finish_fault (a : Word) : (s.finish a).fault = s.fault := rfl
@[simp] theorem finish_response (a : Word) : (s.finish a).response = .step .ok := rfl
@[simp] theorem finish_pending (a : Word) : (s.finish a).pending = s.pending := rfl
@[simp] theorem finish_randomIn (a : Word) : (s.finish a).randomIn = s.randomIn := rfl
@[simp] theorem finish_draws (a : Word) : (s.finish a).draws = s.draws := rfl

/-! ### reportDiag: a diagnostic (R305) -/

@[simp] theorem reportDiag_v (c : DiagCode) (w : Word) : (s.reportDiag c w).v = s.v := rfl
@[simp] theorem reportDiag_i (c : DiagCode) (w : Word) : (s.reportDiag c w).i = s.i := rfl
@[simp] theorem reportDiag_pc (c : DiagCode) (w : Word) : (s.reportDiag c w).pc = s.pc + 2#16 := rfl
@[simp] theorem reportDiag_stack (c : DiagCode) (w : Word) : (s.reportDiag c w).stack = s.stack := rfl
@[simp] theorem reportDiag_sp (c : DiagCode) (w : Word) : (s.reportDiag c w).sp = s.sp := rfl
@[simp] theorem reportDiag_dt (c : DiagCode) (w : Word) : (s.reportDiag c w).dt = s.dt := rfl
@[simp] theorem reportDiag_st (c : DiagCode) (w : Word) : (s.reportDiag c w).st = s.st := rfl
@[simp] theorem reportDiag_fb (c : DiagCode) (w : Word) : (s.reportDiag c w).fb = s.fb := rfl
@[simp] theorem reportDiag_changed (c : DiagCode) (w : Word) : (s.reportDiag c w).changed = s.changed := rfl
@[simp] theorem reportDiag_mem (c : DiagCode) (w : Word) : (s.reportDiag c w).mem = s.mem := rfl
@[simp] theorem reportDiag_keys (c : DiagCode) (w : Word) : (s.reportDiag c w).keys = s.keys := rfl
@[simp] theorem reportDiag_runState (c : DiagCode) (w : Word) : (s.reportDiag c w).runState = s.runState := rfl
@[simp] theorem reportDiag_waitX (c : DiagCode) (w : Word) : (s.reportDiag c w).waitX = s.waitX := rfl
@[simp] theorem reportDiag_waitPrev (c : DiagCode) (w : Word) : (s.reportDiag c w).waitPrev = s.waitPrev := rfl
@[simp] theorem reportDiag_fault (c : DiagCode) (w : Word) : (s.reportDiag c w).fault = s.fault := rfl
@[simp] theorem reportDiag_response (c : DiagCode) (w : Word) : (s.reportDiag c w).response = .step (.diag c w s.pc) := rfl
@[simp] theorem reportDiag_pending (c : DiagCode) (w : Word) : (s.reportDiag c w).pending = s.pending := rfl
@[simp] theorem reportDiag_randomIn (c : DiagCode) (w : Word) : (s.reportDiag c w).randomIn = s.randomIn := rfl
@[simp] theorem reportDiag_draws (c : DiagCode) (w : Word) : (s.reportDiag c w).draws = s.draws := rfl

/-! ### raiseFatal: a fatal condition (R310, R311) -/

@[simp] theorem raiseFatal_v (c : FatalCode) (w : Option Word) : (s.raiseFatal c w).v = s.v := rfl
@[simp] theorem raiseFatal_i (c : FatalCode) (w : Option Word) : (s.raiseFatal c w).i = s.i := rfl
@[simp] theorem raiseFatal_pc (c : FatalCode) (w : Option Word) : (s.raiseFatal c w).pc = s.pc := rfl
@[simp] theorem raiseFatal_stack (c : FatalCode) (w : Option Word) : (s.raiseFatal c w).stack = s.stack := rfl
@[simp] theorem raiseFatal_sp (c : FatalCode) (w : Option Word) : (s.raiseFatal c w).sp = s.sp := rfl
@[simp] theorem raiseFatal_dt (c : FatalCode) (w : Option Word) : (s.raiseFatal c w).dt = s.dt := rfl
@[simp] theorem raiseFatal_st (c : FatalCode) (w : Option Word) : (s.raiseFatal c w).st = s.st := rfl
@[simp] theorem raiseFatal_fb (c : FatalCode) (w : Option Word) : (s.raiseFatal c w).fb = s.fb := rfl
@[simp] theorem raiseFatal_changed (c : FatalCode) (w : Option Word) : (s.raiseFatal c w).changed = s.changed := rfl
@[simp] theorem raiseFatal_mem (c : FatalCode) (w : Option Word) : (s.raiseFatal c w).mem = s.mem := rfl
@[simp] theorem raiseFatal_keys (c : FatalCode) (w : Option Word) : (s.raiseFatal c w).keys = s.keys := rfl
@[simp] theorem raiseFatal_runState (c : FatalCode) (w : Option Word) : (s.raiseFatal c w).runState = .faulted := rfl
@[simp] theorem raiseFatal_waitX (c : FatalCode) (w : Option Word) : (s.raiseFatal c w).waitX = s.waitX := rfl
@[simp] theorem raiseFatal_waitPrev (c : FatalCode) (w : Option Word) : (s.raiseFatal c w).waitPrev = s.waitPrev := rfl
@[simp] theorem raiseFatal_fault (c : FatalCode) (w : Option Word) : (s.raiseFatal c w).fault = some ⟨c, w, s.pc⟩ := rfl
@[simp] theorem raiseFatal_response (c : FatalCode) (w : Option Word) : (s.raiseFatal c w).response = .step (.fatal c w s.pc) := rfl
@[simp] theorem raiseFatal_pending (c : FatalCode) (w : Option Word) : (s.raiseFatal c w).pending = s.pending := rfl
@[simp] theorem raiseFatal_randomIn (c : FatalCode) (w : Option Word) : (s.raiseFatal c w).randomIn = s.randomIn := rfl
@[simp] theorem raiseFatal_draws (c : FatalCode) (w : Option Word) : (s.raiseFatal c w).draws = s.draws := rfl

/-! ### hostError: a host error (R320, R321) -/

@[simp] theorem hostError_v (c : HostErrorCode) : (s.hostError c).v = s.v := rfl
@[simp] theorem hostError_i (c : HostErrorCode) : (s.hostError c).i = s.i := rfl
@[simp] theorem hostError_pc (c : HostErrorCode) : (s.hostError c).pc = s.pc := rfl
@[simp] theorem hostError_stack (c : HostErrorCode) : (s.hostError c).stack = s.stack := rfl
@[simp] theorem hostError_sp (c : HostErrorCode) : (s.hostError c).sp = s.sp := rfl
@[simp] theorem hostError_dt (c : HostErrorCode) : (s.hostError c).dt = s.dt := rfl
@[simp] theorem hostError_st (c : HostErrorCode) : (s.hostError c).st = s.st := rfl
@[simp] theorem hostError_fb (c : HostErrorCode) : (s.hostError c).fb = s.fb := rfl
@[simp] theorem hostError_changed (c : HostErrorCode) : (s.hostError c).changed = s.changed := rfl
@[simp] theorem hostError_mem (c : HostErrorCode) : (s.hostError c).mem = s.mem := rfl
@[simp] theorem hostError_keys (c : HostErrorCode) : (s.hostError c).keys = s.keys := rfl
@[simp] theorem hostError_runState (c : HostErrorCode) : (s.hostError c).runState = s.runState := rfl
@[simp] theorem hostError_waitX (c : HostErrorCode) : (s.hostError c).waitX = s.waitX := rfl
@[simp] theorem hostError_waitPrev (c : HostErrorCode) : (s.hostError c).waitPrev = s.waitPrev := rfl
@[simp] theorem hostError_fault (c : HostErrorCode) : (s.hostError c).fault = s.fault := rfl
@[simp] theorem hostError_response (c : HostErrorCode) : (s.hostError c).response = .step (.hostError c) := rfl
@[simp] theorem hostError_pending (c : HostErrorCode) : (s.hostError c).pending = s.pending := rfl
@[simp] theorem hostError_randomIn (c : HostErrorCode) : (s.hostError c).randomIn = s.randomIn := rfl
@[simp] theorem hostError_draws (c : HostErrorCode) : (s.hostError c).draws = s.draws := rfl

/-! ### enterKeyWait: entering the key-wait (R290) -/

@[simp] theorem enterKeyWait_v (x : Nibble) : (s.enterKeyWait x).v = s.v := rfl
@[simp] theorem enterKeyWait_i (x : Nibble) : (s.enterKeyWait x).i = s.i := rfl
@[simp] theorem enterKeyWait_pc (x : Nibble) : (s.enterKeyWait x).pc = s.pc := rfl
@[simp] theorem enterKeyWait_stack (x : Nibble) : (s.enterKeyWait x).stack = s.stack := rfl
@[simp] theorem enterKeyWait_sp (x : Nibble) : (s.enterKeyWait x).sp = s.sp := rfl
@[simp] theorem enterKeyWait_dt (x : Nibble) : (s.enterKeyWait x).dt = s.dt := rfl
@[simp] theorem enterKeyWait_st (x : Nibble) : (s.enterKeyWait x).st = s.st := rfl
@[simp] theorem enterKeyWait_fb (x : Nibble) : (s.enterKeyWait x).fb = s.fb := rfl
@[simp] theorem enterKeyWait_changed (x : Nibble) : (s.enterKeyWait x).changed = s.changed := rfl
@[simp] theorem enterKeyWait_mem (x : Nibble) : (s.enterKeyWait x).mem = s.mem := rfl
@[simp] theorem enterKeyWait_keys (x : Nibble) : (s.enterKeyWait x).keys = s.keys := rfl
@[simp] theorem enterKeyWait_runState (x : Nibble) : (s.enterKeyWait x).runState = .awaitKey := rfl
@[simp] theorem enterKeyWait_waitX (x : Nibble) : (s.enterKeyWait x).waitX = x := rfl
@[simp] theorem enterKeyWait_waitPrev (x : Nibble) : (s.enterKeyWait x).waitPrev = s.keys := rfl
@[simp] theorem enterKeyWait_fault (x : Nibble) : (s.enterKeyWait x).fault = s.fault := rfl
@[simp] theorem enterKeyWait_response (x : Nibble) : (s.enterKeyWait x).response = .step .ok := rfl
@[simp] theorem enterKeyWait_pending (x : Nibble) : (s.enterKeyWait x).pending = s.pending := rfl
@[simp] theorem enterKeyWait_randomIn (x : Nibble) : (s.enterKeyWait x).randomIn = s.randomIn := rfl
@[simp] theorem enterKeyWait_draws (x : Nibble) : (s.enterKeyWait x).draws = s.draws := rfl

/-! ### Derived updates -/

theorem setFlag_eq (b : Byte) : s.setFlag b = s.setReg 0xF#4 b := rfl
theorem advance_eq : s.advance = s.finish (s.pc + 2#16) := rfl
theorem skipIf_eq (c : Bool) : s.skipIf c = s.finish (if c then s.pc + 4#16 else s.pc + 2#16) := rfl
theorem composite_eq (k : Canvas) : s.composite k = s.setDisplay k.fb (s.changed || k.touched) := rfl
theorem raiseChanged_eq : s.raiseChanged = s.setDisplay s.fb true := rfl

end Sys2Proof.Machine.State
end

