-- ==== Sys2Proof/Laws/Registers.lean ====
section
/-! SUPPORT. Reading a register after an update, and the two multi-register operations of FX55 and FX65. -/

namespace Sys2Proof.Machine.State

variable (s : State)

/-- A write is seen by a read of the same register, and by no other (10_state.md R30). -/
theorem reg_setReg (x r : Nibble) (b : Byte) : (s.setReg x b).reg r = if r = x then b else s.reg r := by
  unfold reg setReg
  by_cases h : r = x
  · subst h; simp
  · have h' : x.toNat ≠ r.toNat := fun e => h (BitVec.eq_of_toNat_eq e.symm)
    simp [h, Vector.getElem_set_ne, h']

@[simp] theorem reg_setReg_same (x : Nibble) (b : Byte) : (s.setReg x b).reg x = b := by simp [reg_setReg]

theorem reg_setReg_other {x r : Nibble} (b : Byte) (h : r ≠ x) : (s.setReg x b).reg r = s.reg r := by simp [reg_setReg, h]

/-- Registers are read from `v` alone. -/
theorem reg_congr {s t : State} (h : t.v = s.v) (r : Nibble) : t.reg r = s.reg r := by simp only [reg, h]

@[simp] theorem reg_setIndex (a : Word) (r : Nibble) : (s.setIndex a).reg r = s.reg r := rfl
@[simp] theorem reg_setDelay (b : Byte) (r : Nibble) : (s.setDelay b).reg r = s.reg r := rfl
@[simp] theorem reg_setSound (b : Byte) (r : Nibble) : (s.setSound b).reg r = s.reg r := rfl
@[simp] theorem reg_setMem (m : Memory) (r : Nibble) : (s.setMem m).reg r = s.reg r := rfl
@[simp] theorem reg_setDisplay (f : Framebuffer) (c : Bool) (r : Nibble) : (s.setDisplay f c).reg r = s.reg r := rfl
@[simp] theorem reg_drawn (r : Nibble) : s.drawn.reg r = s.reg r := rfl
@[simp] theorem reg_finish (a : Word) (r : Nibble) : (s.finish a).reg r = s.reg r := rfl
@[simp] theorem reg_reportDiag (c : DiagCode) (w : Word) (r : Nibble) : (s.reportDiag c w).reg r = s.reg r := rfl
@[simp] theorem reg_raiseFatal (c : FatalCode) (w : Option Word) (r : Nibble) : (s.raiseFatal c w).reg r = s.reg r := rfl
@[simp] theorem reg_hostError (c : HostErrorCode) (r : Nibble) : (s.hostError c).reg r = s.reg r := rfl
@[simp] theorem reg_enterKeyWait (x r : Nibble) : (s.enterKeyWait x).reg r = s.reg r := rfl

/-! ### A destination and VF (00_scope.md R14) -/

/-- VF is written last: where the destination is VF, the flag survives. -/
theorem reg_setResultAndFlag (x r : Nibble) (result flag : Byte) :
    (s.setResultAndFlag x result flag).reg r = if r = 0xF#4 then flag else if r = x then result else s.reg r := by
  simp [setResultAndFlag, setFlag_eq, reg_setReg]

/-! ### FX55 and FX65 -/

@[simp] theorem regsUpTo_length (x : Nibble) : (s.regsUpTo x).length = x.toNat + 1 := by simp [regsUpTo]

theorem regsUpTo_getElem (x : Nibble) (k : Nat) (h : k < (s.regsUpTo x).length) :
    (s.regsUpTo x)[k] = s.reg (BitVec.ofNat 4 k) := by simp [regsUpTo]

/-- `setRegsFrom` writes registers only. -/
theorem setRegsFrom_eq (bs : List Byte) (k : Nat) : ∃ v', s.setRegsFrom k bs = { s with v := v' } := by
  induction bs generalizing s k with
  | nil => exact ⟨s.v, rfl⟩
  | cons b bs ih =>
    obtain ⟨v', h⟩ := ih (s.setReg (BitVec.ofNat 4 k) b) (k + 1)
    exact ⟨v', h⟩

/-- Register `k + j` ends with byte `j`, and every other register is as before (R220). -/
theorem reg_setRegsFrom (bs : List Byte) (k : Nat) (hk : k + bs.length ≤ 16) (r : Nibble) :
    (s.setRegsFrom k bs).reg r =
      if k ≤ r.toNat ∧ r.toNat < k + bs.length then bs.getD (r.toNat - k) 0x00#8 else s.reg r := by
  induction bs generalizing s k with
  | nil => simp [setRegsFrom, show ¬ (k ≤ r.toNat ∧ r.toNat < k) by omega]
  | cons b bs ih =>
    simp only [List.length_cons] at hk
    have hr : (r = BitVec.ofNat 4 k) ↔ r.toNat = k := by
      rw [← BitVec.toNat_inj, BitVec.toNat_ofNat, Nat.mod_eq_of_lt (by omega)]
    rw [setRegsFrom, ih _ _ (by omega), reg_setReg]
    simp only [List.length_cons, hr]
    by_cases h1 : r.toNat = k
    · simp [h1]
    · by_cases h2 : k + 1 ≤ r.toNat ∧ r.toNat < k + 1 + bs.length
      · have e : r.toNat - k = (r.toNat - (k + 1)) + 1 := by omega
        rw [if_pos h2, if_pos (by omega), e, List.getD_cons_succ]
      · rw [if_neg h2, if_neg h1, if_neg (by omega)]

end Sys2Proof.Machine.State
end

