-- ==== Sys2Proof/Laws/Display.lean ====
section
/-! SUPPORT. What a draw does (44_display.md R242, R243): the loop of R242 is a fold of toggles over the pixels the sprite covers,
each once, so its result is said pixel by pixel. -/

namespace Sys2Proof.Machine

/-- A pixel's place. -/
abbrev Cell := Fin 64 × Fin 32

/-! ### One pixel -/

theorem Framebuffer.pixel_flip (fb : Framebuffer) (x px : Fin 64) (y py : Fin 32) :
    (fb.flip x y).pixel px py = if px = x ∧ py = y then !fb.pixel px py else fb.pixel px py := by
  unfold Framebuffer.flip Framebuffer.pixel
  by_cases hx : px = x
  · subst hx
    by_cases hy : py = y
    · subst hy; simp
    · have hne : y.val ≠ py.val := fun e => hy (Fin.ext e.symm)
      simp [hy, Vector.getElem_set_ne, hne]
  · have hne : x.val ≠ px.val := fun e => hx (Fin.ext e.symm)
    simp [hx, Vector.getElem_set_ne, hne]

/-- Framebuffers with the same pixels are the same. -/
theorem Framebuffer.ext_pixel {f g : Framebuffer} (h : ∀ px py, f.pixel px py = g.pixel px py) : f = g := by
  apply Vector.ext
  intro i hi
  apply Vector.ext
  intro j hj
  exact h ⟨i, hi⟩ ⟨j, hj⟩

@[simp] theorem Framebuffer.pixel_dark (px : Fin 64) (py : Fin 32) : Framebuffer.pixel darkFramebuffer px py = false := by
  simp [Framebuffer.pixel, darkFramebuffer]

/-! ### A list of distinct pixels toggled -/

/-- The canvas after toggling pixels in order. -/
def Canvas.toggleAll (k : Canvas) (cells : List Cell) : Canvas := cells.foldl (fun k p => k.toggle p.1 p.2) k

@[simp] theorem Canvas.toggleAll_nil (k : Canvas) : k.toggleAll [] = k := rfl

theorem Canvas.toggleAll_append (k : Canvas) (a b : List Cell) : k.toggleAll (a ++ b) = (k.toggleAll a).toggleAll b := by
  simp [toggleAll]

/-- Toggling distinct pixels inverts exactly them, reports whether one of them was lit before, and whether there was any. -/
theorem Canvas.toggleAll_spec (cells : List Cell) (hnd : cells.Nodup) (k : Canvas) :
    (∀ px py, (k.toggleAll cells).fb.pixel px py = (k.fb.pixel px py != decide ((px, py) ∈ cells))) ∧
    ((k.toggleAll cells).coll = true ↔ k.coll = true ∨ ∃ p ∈ cells, k.fb.pixel p.1 p.2 = true) ∧
    ((k.toggleAll cells).touched = true ↔ k.touched = true ∨ cells ≠ []) := by
  induction cells generalizing k with
  | nil => simp
  | cons c cells ih =>
    obtain ⟨hc, hnd⟩ := List.nodup_cons.1 hnd
    obtain ⟨h1, h2, h3⟩ := ih hnd (k.toggle c.1 c.2)
    have e : k.toggleAll (c :: cells) = (k.toggle c.1 c.2).toggleAll cells := rfl
    have hpix : ∀ px py, (k.toggle c.1 c.2).fb.pixel px py = if (px, py) = c then !k.fb.pixel px py else k.fb.pixel px py := by
      intro px py
      rw [show (k.toggle c.1 c.2).fb = k.fb.flip c.1 c.2 from rfl, Framebuffer.pixel_flip]
      simp [Prod.ext_iff]
    rw [e]
    refine ⟨fun px py => ?_, ?_, ?_⟩
    · rw [h1, hpix]
      by_cases hp : (px, py) = c
      · subst hp; simp [hc]
      · simp [hp]
    · rw [h2]
      have hk : (k.toggle c.1 c.2).coll = (k.coll || k.fb.pixel c.1 c.2) := rfl
      have hrest : (∃ p ∈ cells, (k.toggle c.1 c.2).fb.pixel p.1 p.2 = true) ↔ ∃ p ∈ cells, k.fb.pixel p.1 p.2 = true := by
        constructor <;> rintro ⟨p, hp, hl⟩ <;> refine ⟨p, hp, ?_⟩ <;>
          · have hne : (p.1, p.2) ≠ c := fun he => hc (by rw [← he]; exact hp)
            simpa [hpix, hne] using hl
      rw [hk, hrest]
      simp [or_assoc]
    · rw [h3]
      have : (k.toggle c.1 c.2).touched = true := rfl
      simp [this]

/-! ### The pixels of a sprite -/

/-- The pixels of a row byte drawn at `(x, y)`, left to right. -/
def rowCells (x y : Nat) (row : Byte) : List Cell :=
  ((List.range 8).filter fun c => row.getLsbD (7 - c)).map fun c => (wrapX (x + c), wrapY y)

/-- The pixels of a sprite, row by row. -/
def spriteCells (x y : Nat) : List Byte → List Cell
  | [] => []
  | row :: rows => rowCells x y row ++ spriteCells x (y + 1) rows

theorem drawRow_eq (x y : Nat) (row : Byte) (k : Canvas) : k.drawRow x y row = k.toggleAll (rowCells x y row) := by
  simp only [Canvas.drawRow, Canvas.toggleAll, rowCells, List.foldl_map, List.foldl_filter]
  rfl

theorem drawRows_eq (x : Nat) (rows : List Byte) (y : Nat) (k : Canvas) :
    Canvas.drawRows x y rows k = k.toggleAll (spriteCells x y rows) := by
  induction rows generalizing y k with
  | nil => rfl
  | cons row rows ih => simp only [Canvas.drawRows, spriteCells, ih, drawRow_eq, Canvas.toggleAll_append]

theorem mem_rowCells (x y : Nat) (row : Byte) (px : Fin 64) (py : Fin 32) :
    (px, py) ∈ rowCells x y row ↔
      ∃ c : Fin 8, row.getLsbD (7 - c.val) = true ∧ px.val = (x + c.val) % 64 ∧ py.val = y % 32 := by
  simp only [rowCells, List.mem_map, List.mem_filter, List.mem_range, Prod.mk.injEq]
  constructor
  · rintro ⟨c, ⟨hc, hb⟩, rfl, rfl⟩; exact ⟨⟨c, hc⟩, hb, rfl, rfl⟩
  · rintro ⟨c, hb, hx, hy⟩; exact ⟨c.val, ⟨c.isLt, hb⟩, Fin.ext hx.symm, Fin.ext hy.symm⟩

theorem mem_spriteCells (x : Nat) (rows : List Byte) (y : Nat) (px : Fin 64) (py : Fin 32) :
    (px, py) ∈ spriteCells x y rows ↔
      ∃ r : Fin rows.length, ∃ c : Fin 8,
        (rows[r]).getLsbD (7 - c.val) = true ∧ px.val = (x + c.val) % 64 ∧ py.val = (y + r.val) % 32 := by
  induction rows generalizing y with
  | nil => simp [spriteCells]
  | cons row rows ih =>
    rw [spriteCells, List.mem_append, mem_rowCells, ih]
    constructor
    · rintro (⟨c, hb, hx, hy⟩ | ⟨r, c, hb, hx, hy⟩)
      · exact ⟨⟨0, by simp⟩, c, hb, hx, hy⟩
      · exact ⟨⟨r.val + 1, by simp⟩, c, hb, hx, by rw [hy]; congr 1; simp only []; omega⟩
    · rintro ⟨⟨r, hr⟩, c, hb, hx, hy⟩
      cases r with
      | zero => exact .inl ⟨c, hb, hx, hy⟩
      | succ r =>
        refine .inr ⟨⟨r, by simpa using hr⟩, c, hb, hx, ?_⟩
        rw [hy]; congr 1; simp only []; omega

theorem rowCells_nodup (x y : Nat) (row : Byte) : (rowCells x y row).Nodup := by
  refine List.Nodup.map_on ?_ (List.nodup_range.filter _)
  intro a ha b hb h
  have ha := List.mem_range.1 (List.mem_of_mem_filter ha)
  have hb := List.mem_range.1 (List.mem_of_mem_filter hb)
  have : (x + a) % 64 = (x + b) % 64 := congrArg (fun p : Cell => p.1.val) h
  omega

/-- No two set bits of a sprite hit the same pixel (R242). -/
theorem spriteCells_nodup (x : Nat) (rows : List Byte) (y : Nat) (h : rows.length ≤ 32) : (spriteCells x y rows).Nodup := by
  induction rows generalizing y with
  | nil => exact List.nodup_nil
  | cons row rows ih =>
    simp only [List.length_cons] at h
    refine List.nodup_append'.2 ⟨rowCells_nodup x y row, ih _ (by omega), ?_⟩
    rintro ⟨px, py⟩ h1 h2
    obtain ⟨_, _, _, hy1⟩ := (mem_rowCells ..).1 h1
    obtain ⟨r, _, _, _, hy2⟩ := (mem_spriteCells ..).1 h2
    have := r.isLt
    omega

/-! ### The draw contract (R242) -/

/-- Whether the sprite `rows` drawn at `(x, y)` has a set bit on a pixel. -/
def spriteCovers (x y : Byte) (rows : List Byte) (px : Fin 64) (py : Fin 32) : Prop :=
  ∃ r : Fin rows.length, ∃ c : Fin 8,
    (rows[r]).getLsbD (7 - c.val) = true ∧ px.val = (x.toNat + c.val) % 64 ∧ py.val = (y.toNat + r.val) % 32

/-- The sprite of a DRW in the claims' terms. -/
theorem spriteCovers_readRange (s : State) (x y n : Nibble) (px : Fin 64) (py : Fin 32) :
    spriteCovers (s.reg x) (s.reg y) (s.mem.readRange s.i.toNat n.toNat) px py ↔ s.SpriteOn x y n px py := by
  constructor
  · rintro ⟨r, c, hb, hx, hy⟩
    have hr : r.val < n.toNat := by simpa using r.isLt
    refine ⟨r.val, c.val, hr, c.isLt, ?_, hx, hy⟩
    rw [← hb]
    exact congrArg (fun b : Byte => b.getLsbD _) (Memory.readRange_getElem _ _ _ _ r.isLt).symm
  · rintro ⟨r, c, hr, hc, hb, hx, hy⟩
    refine ⟨⟨r, by simpa using hr⟩, ⟨c, hc⟩, ?_, hx, hy⟩
    rw [← hb]
    exact congrArg (fun b : Byte => b.getLsbD _) (Memory.readRange_getElem _ _ _ _ (by simpa using hr))

/-- Every pixel after a draw is the pixel before it, inverted where the sprite covers it (R242). -/
theorem drawSprite_pixel (fb : Framebuffer) (x y : Byte) (rows : List Byte) (h : rows.length ≤ 32) (px : Fin 64) (py : Fin 32) :
    (spriteCovers x y rows px py → (drawSprite fb x y rows).fb.pixel px py = !fb.pixel px py) ∧
    (¬ spriteCovers x y rows px py → (drawSprite fb x y rows).fb.pixel px py = fb.pixel px py) := by
  have hs := (Canvas.toggleAll_spec _ (spriteCells_nodup x.toNat rows y.toNat h) ⟨fb, false, false⟩).1 px py
  rw [← drawRows_eq] at hs
  have hm : (px, py) ∈ spriteCells x.toNat y.toNat rows ↔ spriteCovers x y rows px py := mem_spriteCells ..
  constructor <;> intro hc <;> simpa [drawSprite, hm, hc] using hs

/-- The collision result: some covered pixel was lit before the draw (R243). -/
theorem drawSprite_coll (fb : Framebuffer) (x y : Byte) (rows : List Byte) (h : rows.length ≤ 32) :
    (drawSprite fb x y rows).coll = true ↔ ∃ px py, spriteCovers x y rows px py ∧ fb.pixel px py = true := by
  have hs := (Canvas.toggleAll_spec _ (spriteCells_nodup x.toNat rows y.toNat h) ⟨fb, false, false⟩).2.1
  rw [← drawRows_eq] at hs
  have hm : ∀ px py, (px, py) ∈ spriteCells x.toNat y.toNat rows ↔ spriteCovers x y rows px py := fun _ _ => mem_spriteCells ..
  rw [drawSprite, hs]
  constructor
  · rintro (h | ⟨p, hp, hl⟩)
    · exact absurd h (by simp)
    · exact ⟨p.1, p.2, (hm ..).1 hp, hl⟩
  · rintro ⟨px, py, hc, hl⟩
    exact .inr ⟨(px, py), (hm ..).2 hc, hl⟩

/-- Whether any pixel was touched (R242). -/
theorem drawSprite_touched (fb : Framebuffer) (x y : Byte) (rows : List Byte) (h : rows.length ≤ 32) :
    (drawSprite fb x y rows).touched = true ↔ ∃ px py, spriteCovers x y rows px py := by
  have hs := (Canvas.toggleAll_spec _ (spriteCells_nodup x.toNat rows y.toNat h) ⟨fb, false, false⟩).2.2
  rw [← drawRows_eq] at hs
  have hm : ∀ px py, (px, py) ∈ spriteCells x.toNat y.toNat rows ↔ spriteCovers x y rows px py := fun _ _ => mem_spriteCells ..
  rw [drawSprite, hs]
  constructor
  · rintro (h | hne)
    · exact absurd h (by simp)
    · obtain ⟨p, hp⟩ := List.exists_mem_of_ne_nil _ hne
      exact ⟨p.1, p.2, (hm ..).1 hp⟩
  · rintro ⟨px, py, hc⟩
    exact .inr (List.ne_nil_of_mem ((hm ..).2 hc))

/-! ### The state after a draw (R252) -/

theorem draw_eq (s : State) (k : Canvas) :
    s.draw k = (((s.setDisplay k.fb true).setReg 0xF#4 (flagByte k.coll)).finish (s.pc + 2#16)) := rfl

end Sys2Proof.Machine
end

