-- ==== Sys2Proof/Laws/OpcodeMap.lean ====
section
/-! SUPPORT. Masks of a word, field by field, and when a word fits a row of the opcode map (30_encoding.md R106). -/

namespace Sys2Proof.Laws

/-! ### Masks of formats -/

theorem formatA_and (f g : Nibble) (a b : Addr) : formatA f a &&& formatA g b = formatA (f &&& g) (a &&& b) := by
  unfold formatA
  exact BitVec.and_append

theorem formatXNN_and (f g x y : Nibble) (a b : Byte) :
    formatXNN f x a &&& formatXNN g y b = formatXNN (f &&& g) (x &&& y) (a &&& b) := by
  unfold formatXNN
  refine BitVec.and_append.trans ?_
  rw [BitVec.and_append]

theorem formatXYN_and (f g x y x' y' a b : Nibble) :
    formatXYN f x x' a &&& formatXYN g y y' b = formatXYN (f &&& g) (x &&& y) (x' &&& y') (a &&& b) := by
  unfold formatXYN
  refine BitVec.and_append.trans ?_
  rw [BitVec.and_append, BitVec.and_append]

/-! ### The four masks of the opcode map on a word -/

theorem and_F000 (w : Word) : w &&& 0xF000#16 = formatA (fieldF w) 0#12 := by
  conv_lhs => rw [← formatA_fields w]
  rw [show 0xF000#16 = formatA 0xF#4 0#12 from rfl, formatA_and, BitVec.and_zero, show 0xF#4 = BitVec.allOnes 4 from rfl,
    BitVec.and_allOnes]

theorem and_F00F (w : Word) : w &&& 0xF00F#16 = formatXYN (fieldF w) 0#4 0#4 (fieldN w) := by
  conv_lhs => rw [← formatXYN_fields w]
  rw [show 0xF00F#16 = formatXYN 0xF#4 0#4 0#4 0xF#4 from rfl, formatXYN_and, BitVec.and_zero, BitVec.and_zero,
    show 0xF#4 = BitVec.allOnes 4 from rfl, BitVec.and_allOnes, BitVec.and_allOnes]

theorem and_F0FF (w : Word) : w &&& 0xF0FF#16 = formatXNN (fieldF w) 0#4 (fieldNN w) := by
  conv_lhs => rw [← formatXNN_fields w]
  rw [show 0xF0FF#16 = formatXNN 0xF#4 0#4 0xFF#8 from rfl, formatXNN_and, BitVec.and_zero,
    show 0xF#4 = BitVec.allOnes 4 from rfl, BitVec.and_allOnes, show 0xFF#8 = BitVec.allOnes 8 from rfl, BitVec.and_allOnes]

theorem and_FFFF (w : Word) : w &&& 0xFFFF#16 = w := by
  rw [show 0xFFFF#16 = BitVec.allOnes 16 from rfl, BitVec.and_allOnes]

/-! ### When a word fits a row, by the row's shape -/

/-- A row whose family alone is fixed. -/
theorem fits_family (w : Word) (m : String) (f : Nibble) :
    (OpcodeRow.mk m 0xF000#16 (formatA f 0#12) []).fits w = decide (fieldF w = f) := by
  simp only [OpcodeRow.fits, and_F000, List.contains_nil, Bool.not_false, Bool.and_true, beq_eq_decide]
  congr 1
  exact propext ⟨fun h => by simpa using congrArg fieldF h, fun h => by rw [h]⟩

/-- A row whose family and low nibble are fixed. -/
theorem fits_family_nibble (w : Word) (m : String) (f n : Nibble) :
    (OpcodeRow.mk m 0xF00F#16 (formatXYN f 0#4 0#4 n) []).fits w = decide (fieldF w = f ∧ fieldN w = n) := by
  simp only [OpcodeRow.fits, and_F00F, List.contains_nil, Bool.not_false, Bool.and_true, beq_eq_decide]
  congr 1
  exact propext ⟨fun h => ⟨by simpa using congrArg fieldF h, by simpa using congrArg fieldN h⟩, fun h => by rw [h.1, h.2]⟩

/-- A row whose family and low byte are fixed. -/
theorem fits_family_byte (w : Word) (m : String) (f : Nibble) (b : Byte) :
    (OpcodeRow.mk m 0xF0FF#16 (formatXNN f 0#4 b) []).fits w = decide (fieldF w = f ∧ fieldNN w = b) := by
  simp only [OpcodeRow.fits, and_F0FF, List.contains_nil, Bool.not_false, Bool.and_true, beq_eq_decide]
  congr 1
  exact propext ⟨fun h => ⟨by simpa using congrArg fieldF h, by simpa using congrArg fieldNN h⟩, fun h => by rw [h.1, h.2]⟩

/-- A row of one word. -/
theorem fits_word (w v : Word) (m : String) : (OpcodeRow.mk m 0xFFFF#16 v []).fits w = decide (w = v) := by
  simp only [OpcodeRow.fits, and_FFFF, List.contains_nil, Bool.not_false, Bool.and_true, beq_eq_decide]

/-- The row of SYS (R107). -/
theorem fits_sys (w : Word) (m : String) :
    (OpcodeRow.mk m 0xF000#16 0x0000#16 [0x00E0#16, 0x00EE#16]).fits w =
      decide (fieldF w = 0#4 ∧ w ≠ 0x00E0#16 ∧ w ≠ 0x00EE#16) := by
  have h := fits_family w m 0#4
  simp only [OpcodeRow.fits, List.contains_nil, Bool.not_false, Bool.and_true] at h ⊢
  rw [show 0x0000#16 = formatA 0#4 0#12 from rfl, h]
  simp

end Sys2Proof.Laws
end

