-- ==== Sys2Proof/Laws/Ops.lean ====
section
/-! SUPPORT. One lemma per shared operation that says everything it can do: the stack, checked indices, stores, the key-wait, fetch,
and the cycle. -/

namespace Sys2Proof.Machine

/-! ### The call stack (10_state.md R40, R41) -/

theorem State.push_ok (s : State) (a : Word) (h : s.sp.val < 16) :
    s.push a = .ok { s with stack := s.stack.set s.sp.val a h, sp := ⟨s.sp.val + 1, by omega⟩ } := by
  simp [State.push, h]

theorem State.push_overflow (s : State) (a : Word) (h : s.sp.val = 16) : s.push a = .error .stackOverflow := by
  simp [State.push, h]

theorem State.pop_ok (s : State) (h : s.sp.val ≠ 0) :
    s.pop = .ok (s.stack[s.sp.val - 1]'(by omega), { s with sp := ⟨s.sp.val - 1, by omega⟩ }) := by
  simp [State.pop, h]

theorem State.pop_underflow (s : State) (h : s.sp.val = 0) : s.pop = .error .stackUnderflow := by
  simp [State.pop, h]

/-! ### Checked indices (41_skips.md R157, 43_index_memory.md R212, R214) -/

theorem digitIndex_ok (b : Byte) (h : b.toNat ≤ 0x0F) : digitIndex b = .ok (BitVec.ofNat 4 b.toNat) := by
  simp [digitIndex, show ¬ b.toNat > 0x0F by omega]

theorem digitIndex_error (b : Byte) (h : 0x0F < b.toNat) : digitIndex b = .error .indexOutOfRange := by
  simp [digitIndex, h]

theorem indexSum_ok (i : Word) (b : Byte) (h : i.toNat + b.toNat ≤ 0xFFF) :
    indexSum i b = .ok (BitVec.ofNat 16 (i.toNat + b.toNat)) := by
  simp [indexSum, show ¬ i.toNat + b.toNat > 0xFFF by omega]

theorem indexSum_error (i : Word) (b : Byte) (h : 0xFFF < i.toNat + b.toNat) : indexSum i b = .error .iRegOutOfRange := by
  simp [indexSum, h]

theorem addrWord_toNat (nnn : Addr) : (addrWord nnn).toNat = nnn.toNat := by
  simp [addrWord]; omega

theorem offsetTarget_toNat (nnn : Addr) (b : Byte) : (offsetTarget nnn b).toNat = nnn.toNat + b.toNat := by
  simp [offsetTarget]; omega

theorem glyphAddr_toNat (d : Nibble) : (glyphAddr d).toNat = 5 * d.toNat := by
  simp [glyphAddr, fontBase]; omega

/-! ### Stores (43_index_memory.md R215) -/

theorem State.storeAtIndex_ok (s : State) (bytes : List Byte) (w : Word) (h : checkWrite s.i.toNat bytes.length = none) :
    s.storeAtIndex bytes w = (s.setMem (s.mem.writeRange s.i.toNat bytes)).finish (s.pc + 2#16) := by
  simp only [State.storeAtIndex, h]; rfl

theorem State.storeAtIndex_fatal (s : State) (bytes : List Byte) (w : Word) (c : FatalCode)
    (h : checkWrite s.i.toNat bytes.length = some c) : s.storeAtIndex bytes w = s.raiseFatal c (some w) := by
  simp only [State.storeAtIndex, h]

@[simp] theorem bcdDigits_length (b : Byte) : (bcdDigits b).length = 3 := rfl

/-! ### The key-wait (45_timers_input.md R291) -/

/-- No key index is given exactly when no bit is set. -/
theorem leastKey_eq_none (w : Word) : leastKey w = none ↔ w = 0#16 := by
  simp only [leastKey, List.find?_eq_none, List.mem_range, Bool.not_eq_true]
  constructor
  · intro h
    apply BitVec.eq_of_getLsbD_eq
    intro k hk
    simpa using h k hk
  · rintro rfl k _
    simp

/-- The key index given is the least one whose bit is set. -/
theorem leastKey_eq_some (w : Word) (k : Nat) :
    leastKey w = some k ↔ k < 16 ∧ w.getLsbD k = true ∧ ∀ j < k, w.getLsbD j = false := by
  rw [leastKey, List.find?_range_eq_some]
  simp only [List.mem_range, Bool.not_eq_true']
  tauto

/-! ### Fetch (20_memory.md R78) -/

theorem State.fetchable_iff (s : State) : s.fetchable = true ↔ 0x200 ≤ s.pc.toNat ∧ s.pc.toNat ≤ 0xFFE := by
  rw [State.fetchable, State.fetchableAt, Bool.and_eq_true, decide_eq_true_iff, decide_eq_true_iff, programBase]
  omega

/-! ### The cycle and the step (30_encoding.md R100) -/

theorem step_free {s : State} (h : s.pending = []) : step s = cycle s := by simp only [step, h]

theorem step_pending {s : State} {t : Transaction} {rest : List Transaction} (h : s.pending = t :: rest) :
    step s = transact t { s with pending := rest } := by simp only [step, h]

@[simp] theorem dropRandom_next (t : State) : dropRandom (.next t) = .next { t with randomIn := none } := rfl

/-- A Step with a named byte is the cycle with that byte, which is gone afterwards. -/
theorem step_named {s : State} {r : Byte} {rest : List Transaction} (h : s.pending = .step r :: rest) :
    step s = dropRandom (cycle { s with pending := rest, randomIn := some r }) := by rw [step_pending h, transact]

theorem State.stepDone_free {s : State} (h : s.pending = []) : s.stepDone = s := by simp only [State.stepDone, h]

theorem State.stepDone_pending {s : State} {t : Transaction} {rest : List Transaction} (h : s.pending = t :: rest) :
    s.stepDone = { s with pending := rest, randomIn := none } := by simp only [State.stepDone, h]

/-- Taking the Step off the host's list changes none of the block's own state. -/
theorem State.stepDone_block (s : State) :
    ∃ (p : List Transaction) (o : Option Byte), s.stepDone = { s with pending := p, randomIn := o } := by
  cases h : s.pending with
  | nil => exact ⟨s.pending, s.randomIn, stepDone_free h⟩
  | cons t rest => exact ⟨rest, none, stepDone_pending h⟩

/-- All that a Step can be, whether its byte is named or not: the cycle from a state that differs from `s` in the host's fields only,
and then the host's fields of `stepDone`. Where the cycle answers `t` and leaves those fields alone, the step answers `t` with the
fields of `stepDone`. -/
theorem step_of_nextIsStep {s : State} (h : s.NextIsStep) :
    ∃ u : State, (∃ (p : List Transaction) (o : Option Byte), u = { s with pending := p, randomIn := o }) ∧
      ∀ t, cycle u = .next t → t.pending = u.pending → t.randomIn = u.randomIn →
        step s = .next { t with pending := s.stepDone.pending, randomIn := s.stepDone.randomIn } := by
  obtain hp | ⟨r, rest, hp⟩ := h
  · refine ⟨s, ⟨_, _, rfl⟩, fun t ht h1 h2 => ?_⟩
    rw [step_free hp, ht, State.stepDone_free hp, ← h1, ← h2]
  · refine ⟨{ s with pending := rest, randomIn := some r }, ⟨_, _, rfl⟩, fun t ht h1 _ => ?_⟩
    rw [step_named hp, ht, State.stepDone_pending hp, dropRandom_next, ← h1]

theorem cycle_unloaded {s : State} (h : s.runState = .unloaded) : cycle s = .next (s.hostError .notLoaded) := by
  simp only [cycle, h]

theorem cycle_faulted {s : State} (h : s.runState = .faulted) : cycle s = .next (s.hostError .faulted) := by
  simp only [cycle, h]

theorem cycle_awaitKey {s : State} (h : s.runState = .awaitKey) : cycle s = .next s.keyWaitPoll := by
  simp only [cycle, h]

theorem cycle_running {s : State} (h : s.runState = .running) : cycle s = runCycle s := by
  simp only [cycle, h]

theorem runCycle_exec {s : State} {i : Instr} (hf : s.fetchable = true) (hd : decode s.fetchedWord = .ok i) :
    runCycle s = exec i s := by simp only [runCycle, hf, if_true, hd]

theorem runCycle_unknown {s : State} {u : Unknown} (hf : s.fetchable = true) (hd : decode s.fetchedWord = .error u) :
    runCycle s = .next (s.execUnknown s.fetchedWord) := by simp only [runCycle, hf, if_true, hd]

theorem runCycle_outside {s : State} (hf : s.fetchable = false) : runCycle s = .next (s.raiseFatal .pcOutOfRange none) := by
  simp [runCycle, hf]

/-! ### Completed instructions -/

theorem State.finish_completed (s : State) (a : Word) : Completed a (s.finish a) := ⟨rfl, rfl⟩

theorem State.raiseFatal_tookFatal (s : State) (c : FatalCode) (w : Option Word) : TookFatal c w s (s.raiseFatal c w) := rfl

end Sys2Proof.Machine
end

