-- ==== Sys2Proof/Laws/PerInstr.lean ====
section
/-! SUPPORT. Lemmas made per instruction, one per constructor of Instr.
Family FitsRow: the word of a well-formed instruction has the fixed bits of the instruction's own row of the opcode map (30_encoding.md
R106), and is not one of the words that row leaves to another (R107). -/

namespace Sys2Proof.Laws

/-- A row without excluded words is fitted by its fixed bits alone. -/
theorem fits_of_mask {m : String} {mask value w : Word} (h : w &&& mask = value) : (OpcodeRow.mk m mask value []).fits w = true := by
  simp [OpcodeRow.fits, h]

/-- Mask 0xF000: the family is fixed. -/
theorem fits_A (m : String) (f : Nibble) (nnn : Addr) : (OpcodeRow.mk m 0xF000#16 (formatA f 0#12) []).fits (formatA f nnn) = true :=
  fits_of_mask (by rw [show 0xF000#16 = formatA 0xF#4 0#12 from rfl, formatA_and, BitVec.and_zero, show 0xF#4 = BitVec.allOnes 4 from rfl, BitVec.and_allOnes])

/-- Mask 0xF000 on a word with a register and a byte. -/
theorem fits_XNN (m : String) (f x : Nibble) (nn : Byte) : (OpcodeRow.mk m 0xF000#16 (formatXNN f 0#4 0#8) []).fits (formatXNN f x nn) = true :=
  fits_of_mask (by rw [show 0xF000#16 = formatXNN 0xF#4 0#4 0#8 from rfl, formatXNN_and, BitVec.and_zero, BitVec.and_zero, show 0xF#4 = BitVec.allOnes 4 from rfl, BitVec.and_allOnes])

/-- Mask 0xF00F: the family and the low nibble are fixed. -/
theorem fits_XY (m : String) (f x y n : Nibble) : (OpcodeRow.mk m 0xF00F#16 (formatXYN f 0#4 0#4 n) []).fits (formatXYN f x y n) = true :=
  fits_of_mask (by rw [show 0xF00F#16 = formatXYN 0xF#4 0#4 0#4 0xF#4 from rfl, formatXYN_and, BitVec.and_zero, BitVec.and_zero, show 0xF#4 = BitVec.allOnes 4 from rfl, BitVec.and_allOnes, BitVec.and_allOnes])

/-- Mask 0xF000 on a word with three nibbles. -/
theorem fits_XYN (m : String) (f x y n : Nibble) : (OpcodeRow.mk m 0xF000#16 (formatXYN f 0#4 0#4 0#4) []).fits (formatXYN f x y n) = true :=
  fits_of_mask (by rw [show 0xF000#16 = formatXYN 0xF#4 0#4 0#4 0#4 from rfl, formatXYN_and, BitVec.and_zero, BitVec.and_zero, BitVec.and_zero, show 0xF#4 = BitVec.allOnes 4 from rfl, BitVec.and_allOnes])

/-- Mask 0xF0FF: the family and the low byte are fixed. -/
theorem fits_X (m : String) (f x : Nibble) (nn : Byte) : (OpcodeRow.mk m 0xF0FF#16 (formatXNN f 0#4 nn) []).fits (formatXNN f x nn) = true :=
  fits_of_mask (by rw [show 0xF0FF#16 = formatXNN 0xF#4 0#4 0xFF#8 from rfl, formatXNN_and, BitVec.and_zero, show 0xF#4 = BitVec.allOnes 4 from rfl, show 0xFF#8 = BitVec.allOnes 8 from rfl, BitVec.and_allOnes, BitVec.and_allOnes])

/-! ### The family -/

/-- The word of `i` fits the row that carries the mnemonic of `i`. -/
def FitsRow.Statement (i : Instr) : Prop := i.wf = true → ∃ r ∈ opcodeRows, r.mnemonic = i.mnemonic ∧ r.fits (encode i) = true

theorem FitsRow.sys (nnn : Addr) : FitsRow.Statement (.sys nnn) := by
  intro h
  refine ⟨⟨"SYS", 0xF000#16, 0x0000#16, [0x00E0#16, 0x00EE#16]⟩, by decide, rfl, ?_⟩
  have hm : formatA 0x0#4 nnn &&& 0xF000#16 = 0x0000#16 := by
    rw [show 0xF000#16 = formatA 0xF#4 0#12 from rfl, formatA_and, BitVec.and_zero]; rfl
  have hne : ∀ c : Addr, nnn ≠ c → formatA 0x0#4 nnn ≠ formatA 0x0#4 c := fun c hc he => hc (by
    have := congrArg fieldNNN he
    rwa [fieldNNN_formatA, fieldNNN_formatA] at this)
  have hw : nnn ≠ 0x0E0#12 ∧ nnn ≠ 0x0EE#12 := by simpa [Instr.wf, sysAddrOk] using h
  have h1 : formatA 0x0#4 nnn ≠ 0x00E0#16 := hne _ hw.1
  have h2 : formatA 0x0#4 nnn ≠ 0x00EE#16 := hne _ hw.2
  simp [OpcodeRow.fits, encode, hm, h1, h2]

theorem FitsRow.cls : FitsRow.Statement (.cls) :=
  fun _ => ⟨⟨"CLS", 0xFFFF#16, 0x00E0#16, []⟩, by decide, rfl, by decide⟩

theorem FitsRow.ret : FitsRow.Statement (.ret) :=
  fun _ => ⟨⟨"RET", 0xFFFF#16, 0x00EE#16, []⟩, by decide, rfl, by decide⟩

theorem FitsRow.jp (nnn : Addr) : FitsRow.Statement (.jp nnn) :=
  fun _ => ⟨⟨"JP", 0xF000#16, 0x1000#16, []⟩, by decide, rfl, fits_A _ 0x1#4 nnn⟩

theorem FitsRow.call (nnn : Addr) : FitsRow.Statement (.call nnn) :=
  fun _ => ⟨⟨"CALL", 0xF000#16, 0x2000#16, []⟩, by decide, rfl, fits_A _ 0x2#4 nnn⟩

theorem FitsRow.seImm (x : Nibble) (nn : Byte) : FitsRow.Statement (.seImm x nn) :=
  fun _ => ⟨⟨"SE_imm", 0xF000#16, 0x3000#16, []⟩, by decide, rfl, fits_XNN _ 0x3#4 x nn⟩

theorem FitsRow.sneImm (x : Nibble) (nn : Byte) : FitsRow.Statement (.sneImm x nn) :=
  fun _ => ⟨⟨"SNE_imm", 0xF000#16, 0x4000#16, []⟩, by decide, rfl, fits_XNN _ 0x4#4 x nn⟩

theorem FitsRow.seReg (x y : Nibble) : FitsRow.Statement (.seReg x y) :=
  fun _ => ⟨⟨"SE_reg", 0xF00F#16, 0x5000#16, []⟩, by decide, rfl, fits_XY _ 0x5#4 x y 0x0#4⟩

theorem FitsRow.ldImm (x : Nibble) (nn : Byte) : FitsRow.Statement (.ldImm x nn) :=
  fun _ => ⟨⟨"LD_imm", 0xF000#16, 0x6000#16, []⟩, by decide, rfl, fits_XNN _ 0x6#4 x nn⟩

theorem FitsRow.addImm (x : Nibble) (nn : Byte) : FitsRow.Statement (.addImm x nn) :=
  fun _ => ⟨⟨"ADD_imm", 0xF000#16, 0x7000#16, []⟩, by decide, rfl, fits_XNN _ 0x7#4 x nn⟩

theorem FitsRow.ldReg (x y : Nibble) : FitsRow.Statement (.ldReg x y) :=
  fun _ => ⟨⟨"LD_reg", 0xF00F#16, 0x8000#16, []⟩, by decide, rfl, fits_XY _ 0x8#4 x y 0x0#4⟩

theorem FitsRow.orReg (x y : Nibble) : FitsRow.Statement (.orReg x y) :=
  fun _ => ⟨⟨"OR", 0xF00F#16, 0x8001#16, []⟩, by decide, rfl, fits_XY _ 0x8#4 x y 0x1#4⟩

theorem FitsRow.andReg (x y : Nibble) : FitsRow.Statement (.andReg x y) :=
  fun _ => ⟨⟨"AND", 0xF00F#16, 0x8002#16, []⟩, by decide, rfl, fits_XY _ 0x8#4 x y 0x2#4⟩

theorem FitsRow.xorReg (x y : Nibble) : FitsRow.Statement (.xorReg x y) :=
  fun _ => ⟨⟨"XOR", 0xF00F#16, 0x8003#16, []⟩, by decide, rfl, fits_XY _ 0x8#4 x y 0x3#4⟩

theorem FitsRow.addReg (x y : Nibble) : FitsRow.Statement (.addReg x y) :=
  fun _ => ⟨⟨"ADD_reg", 0xF00F#16, 0x8004#16, []⟩, by decide, rfl, fits_XY _ 0x8#4 x y 0x4#4⟩

theorem FitsRow.sub (x y : Nibble) : FitsRow.Statement (.sub x y) :=
  fun _ => ⟨⟨"SUB", 0xF00F#16, 0x8005#16, []⟩, by decide, rfl, fits_XY _ 0x8#4 x y 0x5#4⟩

theorem FitsRow.shr (x y : Nibble) : FitsRow.Statement (.shr x y) :=
  fun _ => ⟨⟨"SHR", 0xF00F#16, 0x8006#16, []⟩, by decide, rfl, fits_XY _ 0x8#4 x y 0x6#4⟩

theorem FitsRow.subn (x y : Nibble) : FitsRow.Statement (.subn x y) :=
  fun _ => ⟨⟨"SUBN", 0xF00F#16, 0x8007#16, []⟩, by decide, rfl, fits_XY _ 0x8#4 x y 0x7#4⟩

theorem FitsRow.shl (x y : Nibble) : FitsRow.Statement (.shl x y) :=
  fun _ => ⟨⟨"SHL", 0xF00F#16, 0x800E#16, []⟩, by decide, rfl, fits_XY _ 0x8#4 x y 0xE#4⟩

theorem FitsRow.sneReg (x y : Nibble) : FitsRow.Statement (.sneReg x y) :=
  fun _ => ⟨⟨"SNE_reg", 0xF00F#16, 0x9000#16, []⟩, by decide, rfl, fits_XY _ 0x9#4 x y 0x0#4⟩

theorem FitsRow.ldI (nnn : Addr) : FitsRow.Statement (.ldI nnn) :=
  fun _ => ⟨⟨"LD_I", 0xF000#16, 0xA000#16, []⟩, by decide, rfl, fits_A _ 0xA#4 nnn⟩

theorem FitsRow.jpV0 (nnn : Addr) : FitsRow.Statement (.jpV0 nnn) :=
  fun _ => ⟨⟨"JP_V0", 0xF000#16, 0xB000#16, []⟩, by decide, rfl, fits_A _ 0xB#4 nnn⟩

theorem FitsRow.rnd (x : Nibble) (nn : Byte) : FitsRow.Statement (.rnd x nn) :=
  fun _ => ⟨⟨"RND", 0xF000#16, 0xC000#16, []⟩, by decide, rfl, fits_XNN _ 0xC#4 x nn⟩

theorem FitsRow.drw (x y n : Nibble) : FitsRow.Statement (.drw x y n) :=
  fun _ => ⟨⟨"DRW", 0xF000#16, 0xD000#16, []⟩, by decide, rfl, fits_XYN _ 0xD#4 x y n⟩

theorem FitsRow.skp (x : Nibble) : FitsRow.Statement (.skp x) :=
  fun _ => ⟨⟨"SKP", 0xF0FF#16, 0xE09E#16, []⟩, by decide, rfl, fits_X _ 0xE#4 x 0x9E#8⟩

theorem FitsRow.sknp (x : Nibble) : FitsRow.Statement (.sknp x) :=
  fun _ => ⟨⟨"SKNP", 0xF0FF#16, 0xE0A1#16, []⟩, by decide, rfl, fits_X _ 0xE#4 x 0xA1#8⟩

theorem FitsRow.ldVxDt (x : Nibble) : FitsRow.Statement (.ldVxDt x) :=
  fun _ => ⟨⟨"LD_Vx_DT", 0xF0FF#16, 0xF007#16, []⟩, by decide, rfl, fits_X _ 0xF#4 x 0x07#8⟩

theorem FitsRow.ldVxK (x : Nibble) : FitsRow.Statement (.ldVxK x) :=
  fun _ => ⟨⟨"LD_Vx_K", 0xF0FF#16, 0xF00A#16, []⟩, by decide, rfl, fits_X _ 0xF#4 x 0x0A#8⟩

theorem FitsRow.ldDtVx (x : Nibble) : FitsRow.Statement (.ldDtVx x) :=
  fun _ => ⟨⟨"LD_DT_Vx", 0xF0FF#16, 0xF015#16, []⟩, by decide, rfl, fits_X _ 0xF#4 x 0x15#8⟩

theorem FitsRow.ldStVx (x : Nibble) : FitsRow.Statement (.ldStVx x) :=
  fun _ => ⟨⟨"LD_ST_Vx", 0xF0FF#16, 0xF018#16, []⟩, by decide, rfl, fits_X _ 0xF#4 x 0x18#8⟩

theorem FitsRow.addI (x : Nibble) : FitsRow.Statement (.addI x) :=
  fun _ => ⟨⟨"ADD_I", 0xF0FF#16, 0xF01E#16, []⟩, by decide, rfl, fits_X _ 0xF#4 x 0x1E#8⟩

theorem FitsRow.ldF (x : Nibble) : FitsRow.Statement (.ldF x) :=
  fun _ => ⟨⟨"LD_F", 0xF0FF#16, 0xF029#16, []⟩, by decide, rfl, fits_X _ 0xF#4 x 0x29#8⟩

theorem FitsRow.ldB (x : Nibble) : FitsRow.Statement (.ldB x) :=
  fun _ => ⟨⟨"LD_B", 0xF0FF#16, 0xF033#16, []⟩, by decide, rfl, fits_X _ 0xF#4 x 0x33#8⟩

theorem FitsRow.ldMemVx (x : Nibble) : FitsRow.Statement (.ldMemVx x) :=
  fun _ => ⟨⟨"LD_MEM_Vx", 0xF0FF#16, 0xF055#16, []⟩, by decide, rfl, fits_X _ 0xF#4 x 0x55#8⟩

theorem FitsRow.ldVxMem (x : Nibble) : FitsRow.Statement (.ldVxMem x) :=
  fun _ => ⟨⟨"LD_Vx_MEM", 0xF0FF#16, 0xF065#16, []⟩, by decide, rfl, fits_X _ 0xF#4 x 0x65#8⟩

end Sys2Proof.Laws
end

