-- ==== Sys2Proof/Tests/Slice0.lean ====
section
/-! SUPPORT. The model's own tests: ill-formed terms, words written out bit by bit from the spec's encodings, one step per
instruction with results taken from spec/95_test_vectors.md, and a witness for the hypotheses of every statement of
Certificates/Slice0/Obligations.lean. -/

namespace Sys2Proof.Tests

open Sys2Proof Sys2Proof.Machine

/-! ### Small states -/

/-- The state after Reset and a LoadProgram of no bytes: RUNNING at 0x200 (spec/95_test_vectors.md, conventions). -/
def ready : State := { State.reset with runState := .running }

/-- A state with a word where the next Step fetches. -/
def atWord (w : Nat) (s : State) : State := s.withFetchWord 16 w

/-- One field, or several, of the next state; none for a stop. -/
def get {α : Type} (f : State → α) (o : Host.Outcome State Fault Refusal) : Option α :=
  match o with
  | .next t => some (f t)
  | .fault _ => none
  | .refused _ => none

/-- What one Step on a word gives. -/
def run {α : Type} (w : Nat) (s : State) (f : State → α) : Option α := get f (step (atWord w s))

/-- One transaction of the host performed. -/
def act {α : Type} (t : Transaction) (s : State) (f : State → α) : Option α := get f (step { s with pending := [t] })

/-- Registers 1 and 2 set. -/
def with12 (a b : Byte) : State := (ready.setReg 1#4 a).setReg 2#4 b

/-- The VF flag of the next state and V1. -/
def v1f (t : State) : Byte × Byte := (t.reg 1#4, t.reg 0xF#4)

/-! ### Well-formedness -/

theorem test_wf_refuses_the_word_of_cls : (Instr.sys 0x0E0#12).wf = false := by decide
theorem test_wf_refuses_the_word_of_ret : (Instr.sys 0x0EE#12).wf = false := by decide
theorem test_wf_admits_their_neighbours :
    (Instr.sys 0x0E1#12).wf = true ∧ (Instr.sys 0x0EF#12).wf = true ∧ (Instr.sys 0x1E0#12).wf = true := by decide

/-! ### Decoding: one word per constructor, bits from 30_encoding.md R103, R106 -/

theorem test_decode_control_flow :
    decode 0b0000_0001_0010_0011#16 = .ok (.sys 0x123#12) ∧ decode 0b0000_0000_1110_1110#16 = .ok .ret ∧
    decode 0b0001_0010_0011_0100#16 = .ok (.jp 0x234#12) ∧ decode 0b0010_0011_0000_0000#16 = .ok (.call 0x300#12) ∧
    decode 0b1011_1111_0000_0001#16 = .ok (.jpV0 0xF01#12) := by decide

theorem test_decode_skips :
    decode 0b0011_0011_0100_0010#16 = .ok (.seImm 0x3#4 0x42#8) ∧
    decode 0b0100_1010_0000_1111#16 = .ok (.sneImm 0xA#4 0x0F#8) ∧
    decode 0b0101_0001_0010_0000#16 = .ok (.seReg 0x1#4 0x2#4) ∧
    decode 0b1001_0001_0010_0000#16 = .ok (.sneReg 0x1#4 0x2#4) ∧
    decode 0b1110_0101_1001_1110#16 = .ok (.skp 0x5#4) ∧ decode 0b1110_0101_1010_0001#16 = .ok (.sknp 0x5#4) := by
  decide

theorem test_decode_loads_and_logic :
    decode 0b0110_1010_0010_1111#16 = .ok (.ldImm 0xA#4 0x2F#8) ∧
    decode 0b0111_0001_1111_1111#16 = .ok (.addImm 0x1#4 0xFF#8) ∧
    decode 0b1000_0001_0010_0000#16 = .ok (.ldReg 0x1#4 0x2#4) ∧
    decode 0b1000_0001_0010_0001#16 = .ok (.orReg 0x1#4 0x2#4) ∧
    decode 0b1000_0001_0010_0010#16 = .ok (.andReg 0x1#4 0x2#4) ∧
    decode 0b1000_0001_0010_0011#16 = .ok (.xorReg 0x1#4 0x2#4) := by decide

theorem test_decode_arithmetic :
    decode 0b1000_0001_0010_0100#16 = .ok (.addReg 0x1#4 0x2#4) ∧
    decode 0b1000_0001_0010_0101#16 = .ok (.sub 0x1#4 0x2#4) ∧
    decode 0b1000_0001_0010_0110#16 = .ok (.shr 0x1#4 0x2#4) ∧
    decode 0b1000_0001_0010_0111#16 = .ok (.subn 0x1#4 0x2#4) ∧
    decode 0b1000_0001_0010_1110#16 = .ok (.shl 0x1#4 0x2#4) ∧
    decode 0b1100_0011_0000_1111#16 = .ok (.rnd 0x3#4 0x0F#8) := by decide

theorem test_decode_index_and_memory :
    decode 0b1010_0010_1111_0000#16 = .ok (.ldI 0x2F0#12) ∧ decode 0b1111_0010_0001_1110#16 = .ok (.addI 0x2#4) ∧
    decode 0b1111_0100_0010_1001#16 = .ok (.ldF 0x4#4) ∧ decode 0b1111_0011_0011_0011#16 = .ok (.ldB 0x3#4) ∧
    decode 0b1111_0010_0101_0101#16 = .ok (.ldMemVx 0x2#4) ∧ decode 0b1111_0010_0110_0101#16 = .ok (.ldVxMem 0x2#4) := by
  decide

theorem test_decode_display_timers_keys :
    decode 0b0000_0000_1110_0000#16 = .ok .cls ∧ decode 0b1101_1010_1011_0101#16 = .ok (.drw 0xA#4 0xB#4 0x5#4) ∧
    decode 0b1111_0101_0000_0111#16 = .ok (.ldVxDt 0x5#4) ∧ decode 0b1111_0011_0000_1010#16 = .ok (.ldVxK 0x3#4) ∧
    decode 0b1111_0101_0001_0101#16 = .ok (.ldDtVx 0x5#4) ∧ decode 0b1111_0101_0001_1000#16 = .ok (.ldStVx 0x5#4) := by
  decide

/-- The UNKNOWN words of spec/95_test_vectors.md 2.1 (30_encoding.md R108). -/
theorem test_decode_unknown_words :
    decode 0x5121#16 = .error .family5 ∧ decode 0x8128#16 = .error .family8 ∧ decode 0x912F#16 = .error .family9 ∧
    decode 0xE19F#16 = .error .familyE ∧ decode 0xF0FF#16 = .error .familyF := by decide

/-- The high byte comes first; two bytes make a word (20_memory.md R76, 30_encoding.md R101). -/
theorem test_decode_bytes :
    decodeBytes [0xD0#8, 0x15#8, 0x77#8] = .ok (.drw 0x0#4 0x1#4 0x5#4, [0x77#8]) ∧
    decodeBytes [0xD0#8] = .error .truncated ∧ decodeBytes [] = .error .truncated := by decide

theorem test_decode_table_word :
    decodeTableWord 16 0x8127 = some (.subn 0x1#4 0x2#4) ∧ decodeTableWord 16 0x8128 = none := by decide

/-- The code numbers of 60_exceptions.md R302. -/
theorem test_code_numbers :
    FatalCode.stackOverflow.number = 0x01#8 ∧ FatalCode.stackUnderflow.number = 0x02#8 ∧
    FatalCode.memOutOfRange.number = 0x03#8 ∧ FatalCode.pcOutOfRange.number = 0x04#8 ∧
    FatalCode.protectedWrite.number = 0x05#8 ∧ FatalCode.indexOutOfRange.number = 0x06#8 ∧
    FatalCode.iRegOutOfRange.number = 0x07#8 ∧ DiagCode.unknownInstruction.number = 0x10#8 ∧
    DiagCode.unimplementedSys.number = 0x11#8 ∧ HostErrorCode.programTooLarge.number = 0x20#8 ∧
    HostErrorCode.notLoaded.number = 0x21#8 ∧ HostErrorCode.alreadyLoaded.number = 0x22#8 ∧
    HostErrorCode.faulted.number = 0x23#8 := by decide

/-! ### The cycle (spec/95_test_vectors.md 2.1) -/

theorem test_reset_memory_is_canonical : State.reset.mem.Wf := by decide

theorem test_unknown_is_a_diagnostic :
    run 0x5121 ready (fun t => (t.response, t.pc)) =
      some (.step (.diag .unknownInstruction 0x5121#16 0x200#16), 0x202#16) := by decide

theorem test_fetch_below_the_area_is_fatal :
    get (fun t => (t.response, t.runState, t.pc)) (step { ready with pc := 0x1FE#16 }) =
      some (.step (.fatal .pcOutOfRange none 0x1FE#16), .faulted, 0x1FE#16) := by decide

theorem test_odd_pc_is_admitted :
    run 0x6A01 { ready with pc := 0x201#16 } (fun t => (t.reg 0xA#4, t.pc)) = some (0x01#8, 0x203#16) := by decide

theorem test_step_unloaded : get (·.response) (step State.reset) = some (.step (.hostError .notLoaded)) := by decide

/-! ### Control flow (2.2) -/

theorem test_sys_is_a_diagnostic :
    run 0x0123 ready (fun t => (t.response, t.pc)) =
      some (.step (.diag .unimplementedSys 0x0123#16 0x200#16), 0x202#16) := by decide

theorem test_jp : run 0x1234 ready (·.pc) = some 0x234#16 := by decide

theorem test_call_pushes :
    run 0x2300 ready (fun t => (t.stack[0], t.sp.val, t.pc)) = some (0x202#16, 1, 0x300#16) := by decide

theorem test_call_overflows :
    run 0x2300 { ready with sp := 16 } (fun t => (t.response, t.sp.val, t.pc)) =
      some (.step (.fatal .stackOverflow (some 0x2300#16) 0x200#16), 16, 0x200#16) := by decide

theorem test_ret_pops :
    run 0x00EE { ready with pc := 0x300#16, sp := 1, stack := ready.stack.set 0 0x202#16 } (fun t => (t.pc, t.sp.val)) =
      some (0x202#16, 0) := by decide

theorem test_ret_underflows :
    run 0x00EE { ready with pc := 0x300#16 } (·.response) =
      some (.step (.fatal .stackUnderflow (some 0x00EE#16) 0x300#16)) := by decide

theorem test_jpV0_beyond_memory : run 0xBFFF (ready.setReg 0#4 0xFF#8) (·.pc) = some 0x10FE#16 := by decide

/-! ### Skips (2.3) -/

theorem test_seImm :
    run 0x3342 (ready.setReg 3#4 0x42#8) (·.pc) = some 0x204#16 ∧ run 0x3342 (ready.setReg 3#4 0x41#8) (·.pc) = some 0x202#16 := by
  decide

theorem test_sneImm :
    run 0x4342 (ready.setReg 3#4 0x42#8) (·.pc) = some 0x202#16 ∧ run 0x4300 (ready.setReg 3#4 0x42#8) (·.pc) = some 0x204#16 := by
  decide

theorem test_seReg :
    run 0x5120 (with12 7#8 7#8) (·.pc) = some 0x204#16 ∧ run 0x5120 (with12 7#8 8#8) (·.pc) = some 0x202#16 := by decide

theorem test_sneReg :
    run 0x9120 (with12 7#8 8#8) (·.pc) = some 0x204#16 ∧ run 0x9110 (with12 7#8 8#8) (·.pc) = some 0x202#16 := by decide

theorem test_skp :
    run 0xE59E { ready.setReg 5#4 0x0A#8 with keys := 0x0400#16 } (·.pc) = some 0x204#16 ∧
    run 0xE59E (ready.setReg 5#4 0x10#8) (·.response) =
      some (.step (.fatal .indexOutOfRange (some 0xE59E#16) 0x200#16)) := by decide

theorem test_sknp :
    run 0xE5A1 { ready.setReg 5#4 0x0A#8 with keys := 0x0400#16 } (·.pc) = some 0x202#16 ∧
    run 0xE5A1 (ready.setReg 5#4 0x0A#8) (·.pc) = some 0x204#16 := by decide

/-! ### Registers and arithmetic (2.4) -/

theorem test_ldImm : run 0x6A2F ready (fun t => (t.reg 0xA#4, t.reg 0xF#4)) = some (0x2F#8, 0x00#8) := by decide

theorem test_addImm_wraps_without_flag :
    run 0x7101 ((ready.setReg 1#4 0xFF#8).setReg 0xF#4 0x05#8) v1f = some (0x00#8, 0x05#8) := by decide

theorem test_ldReg : run 0x8120 (with12 0#8 0x99#8) v1f = some (0x99#8, 0x00#8) := by decide

theorem test_orReg : run 0x8121 ((with12 0xF0#8 0x0F#8).setReg 0xF#4 0x07#8) v1f = some (0xFF#8, 0x07#8) := by decide

theorem test_andReg : run 0x8122 (with12 0xF3#8 0x3F#8) v1f = some (0x33#8, 0x00#8) := by decide

theorem test_xorReg : run 0x8123 (with12 0xFF#8 0x0F#8) v1f = some (0xF0#8, 0x00#8) := by decide

theorem test_addReg_carry :
    run 0x8124 (with12 0xC8#8 0x64#8) v1f = some (0x2C#8, 0x01#8) ∧ run 0x8124 (with12 0x80#8 0x7F#8) v1f = some (0xFF#8, 0x00#8) := by
  decide

theorem test_addReg_flag_wins :
    run 0x8F14 ((ready.setReg 1#4 0x01#8).setReg 0xF#4 0xFF#8) (fun t => t.reg 0xF#4) = some 0x01#8 := by decide

theorem test_sub_equal_sets_flag :
    run 0x8125 (with12 0x07#8 0x07#8) v1f = some (0x00#8, 0x01#8) ∧ run 0x8125 (with12 0x05#8 0x07#8) v1f = some (0xFE#8, 0x00#8) := by
  decide

theorem test_subn_reverses :
    run 0x8127 (with12 0x05#8 0x07#8) v1f = some (0x02#8, 0x01#8) ∧ run 0x8127 (with12 0x07#8 0x05#8) v1f = some (0xFE#8, 0x00#8) := by
  decide

theorem test_shr :
    run 0x8126 (with12 0x05#8 0xAA#8) v1f = some (0x02#8, 0x01#8) ∧
    run 0x8F06 (ready.setReg 0xF#4 0x03#8) (fun t => t.reg 0xF#4) = some 0x01#8 := by decide

theorem test_shl :
    run 0x810E (with12 0x81#8 0#8) v1f = some (0x02#8, 0x01#8) ∧ run 0x810E (with12 0x7F#8 0#8) v1f = some (0xFE#8, 0x00#8) := by
  decide

/-- `r = 0xB6`, `C30F`: V3 = 0x06. -/
theorem test_rnd_named_byte : act (.step 0xB6#8) (atWord 0xC30F ready) (fun t => t.reg 3#4) = some 0x06#8 := by decide

/-! ### Index register and memory (2.5) -/

theorem test_ldI : run 0xA2F0 ready (·.i) = some 0x2F0#16 := by decide

theorem test_addI :
    run 0xF21E { with12 0#8 0xFF#8 with i := 0xF00#16 } (·.i) = some 0xFFF#16 ∧
    run 0xF21E { with12 0#8 0xFF#8 with i := 0xF01#16 } (·.response) =
      some (.step (.fatal .iRegOutOfRange (some 0xF21E#16) 0x200#16)) := by decide

theorem test_ldF :
    run 0xF429 (ready.setReg 4#4 0x0F#8) (·.i) = some 0x04B#16 ∧
    run 0xF429 (ready.setReg 4#4 0x10#8) (·.response) =
      some (.step (.fatal .indexOutOfRange (some 0xF429#16) 0x200#16)) := by decide

theorem test_ldB_digits :
    run 0xF333 { ready.setReg 3#4 0x9C#8 with i := 0x300#16 } (fun t => t.mem.readRange 0x300 3) =
      some [1#8, 5#8, 6#8] := by decide

theorem test_ldB_checks :
    run 0xF333 { ready with i := 0xFFE#16 } (·.response) =
      some (.step (.fatal .memOutOfRange (some 0xF333#16) 0x200#16)) ∧
    run 0xF333 { ready with i := 0x04E#16 } (·.response) =
      some (.step (.fatal .protectedWrite (some 0xF333#16) 0x200#16)) := by decide

/-- `V0..V2 = 11 22 33`, `I = 0x400`. -/
theorem test_ldMemVx :
    run 0xF255 { (with12 0x22#8 0x33#8).setReg 0#4 0x11#8 with i := 0x400#16 } (fun t => (t.mem.readRange 0x400 3, t.i)) =
      some ([0x11#8, 0x22#8, 0x33#8], 0x400#16) := by decide

theorem test_ldMemVx_checks_first :
    run 0xFF55 { ready with i := 0xFF1#16 } (·.response) =
      some (.step (.fatal .memOutOfRange (some 0xFF55#16) 0x200#16)) := by decide

theorem test_ldVxMem_reads_the_font :
    run 0xF465 ready (fun t => t.regsUpTo 5#4) = some [0xF0#8, 0x90#8, 0x90#8, 0x90#8, 0xF0#8, 0x00#8] := by decide

theorem test_ldVxMem_checks :
    run 0xF165 { ready with i := 0xFFF#16 } (·.response) =
      some (.step (.fatal .memOutOfRange (some 0xF165#16) 0x200#16)) := by decide

/-! ### Display (2.6) -/

/-- A state with one lit pixel and a sprite byte at 0x300. -/
def lit (x : Fin 64) (y : Fin 32) (sprite : Byte) : State :=
  { ready with fb := ready.fb.flip x y, mem := ready.mem.write 0x300 sprite, i := 0x300#16 }

theorem test_cls : run 0x00E0 (lit 5 5 0#8) (fun t => (t.fb.pixel 5 5, t.changed)) = some (false, true) := by decide

/-- Only (0, 0) lit, sprite C0: (0, 0) dark, (1, 0) lit, VF = 1. -/
theorem test_drw_collides :
    run 0xD011 (lit 0 0 0xC0#8) (fun t => (t.fb.pixel 0 0, t.fb.pixel 1 0, t.reg 0xF#4)) = some (false, true, 0x01#8) := by
  decide

/-- V0 = 0xFF, sprite FF: the origin is column 63 and the sprite wraps to columns 0 to 6. -/
theorem test_drw_wraps :
    run 0xD011 ((lit 5 5 0xFF#8).setReg 0#4 0xFF#8)
      (fun t => (t.fb.pixel 63 0, t.fb.pixel 0 0, t.fb.pixel 6 0, t.fb.pixel 7 0, t.fb.pixel 62 0, t.reg 0xF#4)) =
      some (true, true, true, false, false, 0x00#8) := by decide

/-! ### Timers, keys and the host (2.7) -/

theorem test_ldVxDt : run 0xF507 { ready with dt := 0x3C#8 } (fun t => t.reg 5#4) = some 0x3C#8 := by decide

theorem test_ldDtVx : run 0xF515 (ready.setReg 5#4 0x3C#8) (·.dt) = some 0x3C#8 := by decide

theorem test_ldStVx : run 0xF518 (ready.setReg 5#4 0x02#8) (·.st) = some 0x02#8 := by decide

/-- Key 4 is held: the wait is entered, not completed. -/
theorem test_ldVxK_enters :
    run 0xF30A { ready with keys := 0x0010#16 } (fun t => (t.runState, t.waitX, t.waitPrev, t.pc)) =
      some (.awaitKey, 3#4, 0x0010#16, 0x200#16) := by decide

/-- Keys 9 and 2 newly pressed: the lowest index wins. -/
theorem test_key_poll_completes :
    get (fun t => (t.reg 3#4, t.runState, t.pc)) (step { ready with runState := .awaitKey, waitX := 3#4, keys := 0x0204#16 }) =
      some (0x02#8, .running, 0x202#16) := by decide

/-- Key 4 still held: still waiting. -/
theorem test_key_poll_waits :
    get (fun t => (t.runState, t.pc)) (step { ready with runState := .awaitKey, keys := 0x0010#16, waitPrev := 0x0010#16 }) =
      some (.awaitKey, 0x200#16) := by decide

theorem test_tick :
    act .tick { ready with dt := 0x05#8, st := 0x01#8 } (fun t => (t.dt, t.st, t.response)) =
      some (0x04#8, 0x00#8, .pulse true) := by decide

theorem test_setKey : act (.setKey 7#4 true) ready (·.keys) = some 0x0080#16 := by decide

theorem test_loadProgram :
    act (.loadProgram [0x60#8, 0xC8#8]) State.reset (fun t => (t.mem.readRange 0x200 2, t.runState, t.response)) =
      some ([0x60#8, 0xC8#8], .running, .loadOk) := by decide

theorem test_consumeChanged :
    act .consumeChanged { ready with changed := true } (fun t => (t.changed, t.response)) =
      some (false, .changedBit true) := by decide

/-! ### Witnesses: for each statement with hypotheses, states and operands that meet them all, one per clause -/

theorem witness_DecodeOfEncodeIsTheInstruction :
    (Instr.sys 0x0E1#12).wf = true ∧ (Instr.drw 0xF#4 0xF#4 0xF#4).wf = true := by decide

theorem witness_EncodeOfDecodeIsTheWord :
    decode 0x0000#16 = .ok (.sys 0x000#12) ∧ decode 0xFF65#16 = .ok (.ldVxMem 0xF#4) := by decide

theorem witness_EveryWordFitsOneRowOrIsUnknown :
    decode 0x00E0#16 = .ok .cls ∧ decode 0xFFFF#16 = .error .familyF := by decide

/-- The state with a Step of byte 0xB6 pending, and a Tick after it. -/
def named (s : State) : State := { s with pending := [.step 0xB6#8, .tick] }

/-- At the last address a fetch is admitted from, with nothing pending and with a named Step. -/
theorem witness_StepRunsTheDecodedInstruction :
    (∃ s : State, s.Fetches (.jp 0x234#12) ∧ s.pending = []) ∧
    (∃ s : State, s.Fetches (.jp 0x234#12) ∧ s.pending = .step 0xB6#8 :: [Transaction.tick]) :=
  ⟨⟨atWord 0x1234 { ready with pc := 0xFFE#16 }, ⟨by decide, by decide, by decide, by decide⟩, rfl⟩,
    ⟨named (atWord 0x1234 { ready with pc := 0xFFE#16 }), ⟨by decide, by decide, by decide, by decide⟩, rfl⟩⟩

/-- Just below the area with nothing pending, and at the top of memory with a named Step. -/
theorem witness_FetchOutsideProgramAreaIsFatal :
    (∃ s : State, s.NextIsStep ∧ s.runState = .running ∧ s.pc.toNat + 1 = 0x200) ∧
    (∃ s : State, s.NextIsStep ∧ s.runState = .running ∧ s.pc.toNat + 1 = 0x1000) :=
  ⟨⟨{ ready with pc := 0x1FF#16 }, .inl rfl, by decide⟩, ⟨named { ready with pc := 0xFFF#16 }, .inr ⟨_, _, rfl⟩, by decide⟩⟩

/-- An UNKNOWN word at 0x200, and at 0xFFE with a named Step. -/
theorem witness_UnknownWordIsReportedAndSkipped :
    (∃ s : State, s.NextIsStep ∧ s.runState = .running ∧ s.pc = 0x200#16 ∧
      decodeBytes [s.mem.read s.pc.toNat, s.mem.read (s.pc.toNat + 1)] = .error (.unknown .family5)) ∧
    (∃ s : State, s.NextIsStep ∧ s.runState = .running ∧ s.pc = 0xFFE#16 ∧
      decodeBytes [s.mem.read s.pc.toNat, s.mem.read (s.pc.toNat + 1)] = .error (.unknown .familyF)) :=
  ⟨⟨atWord 0x5121 ready, .inl rfl, by decide⟩,
    ⟨named (atWord 0xF0FF { ready with pc := 0xFFE#16 }), .inr ⟨_, _, rfl⟩, by decide⟩⟩

/-- FAULTED with its record, a tick pending or nothing. -/
def faulted (pending : List Transaction) : State :=
  { ready with runState := .faulted, fault := some ⟨.stackUnderflow, some 0x00EE#16, 0x200#16⟩, pending := pending }

theorem witness_StepNotLoadedOrFaultedChangesNothing :
    (∃ s : State, s.NextIsStep ∧ s.runState = .unloaded ∧ s.pending ≠ []) ∧
    (∃ s : State, s.NextIsStep ∧ s.runState = .faulted ∧ s.pending = []) :=
  ⟨⟨named State.reset, .inr ⟨_, _, rfl⟩, by decide⟩, ⟨faulted [], .inl rfl, by decide⟩⟩

/-- The result is Ok for one word and Fatal for another, whose Step has a named byte. -/
theorem witness_StepAnswersOneResult :
    (∃ s t : State, s.NextIsStep ∧ step s = .next t ∧ t.response = .step .ok ∧ t.runState = .running) ∧
    (∃ s t : State, s.NextIsStep ∧ step s = .next t ∧ t.runState = .faulted ∧ s.pending ≠ []) :=
  ⟨⟨atWord 0x1234 ready, _, .inl rfl, rfl, rfl, rfl⟩, ⟨named (atWord 0x00EE ready), _, .inr ⟨_, _, rfl⟩, rfl, rfl, by decide⟩⟩

/-- A store of three bytes whose last is the high byte of the next word, and one of one byte over its low byte. -/
theorem witness_NextFetchSeesAStore :
    (∃ s : State, 80 ≤ s.i.toNat ∧ s.i.toNat + 2 = 0xFFE ∧ s.i.toNat + 2 = s.pc.toNat + 2) ∧
    (∃ s : State, 80 ≤ s.i.toNat ∧ s.i.toNat + (0#4).toNat = 0xFFF ∧ s.i.toNat = s.pc.toNat + 3) :=
  ⟨⟨{ ready with pc := 0xFFC#16, i := 0xFFC#16 }, by decide⟩, ⟨{ ready with pc := 0xFFC#16, i := 0xFFF#16 }, by decide⟩⟩

/-- A RUNNING state with one stored byte meets the invariant, and it has a next state. -/
theorem witness_EveryStepKeepsTheInvariant :
    ∃ s t : State, s.Inv ∧ s.mem ≠ [] ∧ s.runState = .running ∧ step s = .next t := by
  refine ⟨{ ready with mem := [(0x300, 0x05#8)], i := 0xFFF#16, pc := 0xFFE#16 }, _,
    ⟨by decide, fun a ha => ?_, by decide, by decide, fun k a h => ?_, by decide, by decide, rfl⟩, by decide, rfl, rfl⟩
  · have : a < 80 := (isFontAddr_iff a).1 ha
    simp only [Memory.read]
    rw [if_neg (by omega)]
  · simp only [ready, State.reset, Vector.getElem?_replicate] at h
    split at h <;> simp at h
    subst h; decide

theorem witness_FatalStepWritesOnlyTheRecord :
    (∃ s t : State, s.NextIsStep ∧ s.runState = .running ∧ step s = .next t ∧ t.runState = .faulted ∧
      t.response = .step (.fatal .protectedWrite (some 0xF033#16) 0x200#16)) ∧
    (∃ s t : State, s.NextIsStep ∧ s.runState = .running ∧ step s = .next t ∧ t.runState = .faulted ∧
      t.response = .step (.fatal .pcOutOfRange none 0x1FF#16)) :=
  ⟨⟨atWord 0xF033 ready, _, .inl rfl, rfl, rfl, rfl, by decide⟩,
    ⟨named { ready with pc := 0x1FF#16 }, _, .inr ⟨_, _, rfl⟩, rfl, rfl, rfl, by decide⟩⟩

theorem witness_FaultedUntilReset :
    (faulted [.tick]).runState = .faulted ∧ (faulted [.tick]).pending.head? ≠ some .reset ∧
    (∃ t, step (faulted [.tick]) = .next t) ∧ (faulted []).pending.head? ≠ some .reset ∧ (∃ t, step (faulted []) = .next t) :=
  ⟨rfl, by decide, ⟨_, rfl⟩, by decide, ⟨_, rfl⟩⟩

/-- A load of all sixteen registers. -/
theorem witness_RegistersChangeOnlyAsNamed :
    ∃ t, exec (.ldVxMem 0xF#4) ready = .next t ∧ t.reg 0x0#4 ≠ ready.reg 0x0#4 := ⟨_, rfl, by decide⟩

/-- A store that ends at the last byte of memory. -/
theorem witness_MemoryChangesOnlyInStoredRange :
    ∃ t, exec (.ldMemVx 0xF#4) { with12 1#8 2#8 with i := 0xFF0#16 } = .next t ∧ t.mem ≠ [] := ⟨_, rfl, by decide⟩

/-- A store aimed at the last byte of the font table. -/
theorem witness_NoInstructionWritesTheFont :
    ∃ t, exec (.ldMemVx 0x0#4) { ready with i := 0x04F#16 } = .next t ∧ t.runState = .faulted := ⟨_, rfl, rfl⟩

theorem witness_PartsChangeOnlyByTheirWriters :
    (∃ t, exec (.ldI 0xFFF#12) ready = .next t ∧ t.runState ≠ .faulted) ∧
    (∃ t, exec (.skp 0x1#4) (with12 0x10#8 0#8) = .next t ∧ (with12 0x10#8 0#8).runState ≠ .faulted ∧
      t.runState = .faulted) := ⟨⟨_, rfl, by decide⟩, ⟨_, rfl, by decide, rfl⟩⟩

theorem witness_TickCountsDown : ∃ s : State, s.pending = .tick :: [Transaction.snapshot] ∧ s.st = 1#8 ∧ s.dt = 0#8 :=
  ⟨{ ready with pending := [.tick, .snapshot], st := 1#8 }, by decide⟩

theorem witness_TicksClampAndPulseOnce : ∃ s : State, s.pending = List.replicate (4 + 1) .tick ∧ s.dt = 3#8 :=
  ⟨{ ready with pending := List.replicate 5 .tick, dt := 3#8 }, by decide⟩

theorem witness_SetKeySetsOneKey : ∃ s : State, s.pending = .setKey 0xF#4 true :: [] :=
  ⟨{ ready with pending := [.setKey 0xF#4 true] }, by decide⟩

theorem witness_HostReadsOfTheDisplay :
    (∃ s : State, s.pending = .snapshot :: []) ∧ (∃ s : State, s.pending = .consumeChanged :: [] ∧ s.changed = true) :=
  ⟨⟨{ ready with pending := [.snapshot] }, by decide⟩, ⟨{ ready with pending := [.consumeChanged], changed := true }, by decide⟩⟩

theorem witness_ResetRestoresEverything : ∃ s : State, s.pending = .reset :: [] ∧ s.runState = .faulted :=
  ⟨faulted [.reset], by decide⟩

/-- A block that is already loaded, an image of 3585 bytes, and one of exactly 3584. -/
theorem witness_LoadProgramCopiesOrRefuses :
    (∃ s : State, s.pending = .loadProgram [] :: [] ∧ s.runState ≠ .unloaded) ∧
    (∃ s : State, ∃ bytes, s.pending = .loadProgram bytes :: [] ∧ s.runState = .unloaded ∧ bytes.length = 3585) ∧
    (∃ s : State, ∃ bytes, s.pending = .loadProgram bytes :: [] ∧ s.runState = .unloaded ∧ bytes.length = 3584) :=
  ⟨⟨{ ready with pending := [.loadProgram []] }, by decide⟩,
    ⟨{ State.reset with pending := [.loadProgram (List.replicate 3585 0#8)] }, _, rfl, rfl, List.length_replicate⟩,
    ⟨{ State.reset with pending := [.loadProgram (List.replicate 3584 0#8)] }, _, rfl, rfl, List.length_replicate⟩⟩

theorem witness_SysReportsAndSkips : (0x000#12) ≠ 0x0E0#12 ∧ (0x000#12) ≠ 0x0EE#12 := by decide

theorem witness_CallPushesOrOverflows :
    ({ ready with sp := 15 } : State).sp.val < 16 ∧ ({ ready with sp := 16 } : State).sp.val = 16 := by decide

theorem witness_RetPopsOrUnderflows : ({ ready with sp := 1 } : State).sp.val ≠ 0 ∧ ready.sp.val = 0 := by decide

/-- The deepest CALL, and the state right after it. -/
theorem witness_CallThenRetComesBack :
    ({ ready with sp := 15 } : State).sp.val < 16 ∧
    ∃ t, exec (.call 0x300#12) { ready with sp := 15 } = .next t ∧
      ∃ u : State, u.stack = t.stack ∧ u.sp = t.sp := ⟨by decide, _, rfl, _, rfl, rfl⟩

/-- A self-jump is the conventional halt whatever the host does next: nothing, a named Step, a Tick (R353 b). -/
theorem witness_SelfJumpStays :
    (∃ s : State, s.AtSelfJump ∧ s.pc = 0x200#16 ∧ s.NextIsStep ∧ s.pending = []) ∧
    (∃ s : State, s.AtSelfJump ∧ s.pc = 0x200#16 ∧ s.NextIsStep ∧ s.pending ≠ []) ∧
    (∃ s : State, s.AtSelfJump ∧ s.pc = 0x200#16 ∧ s.pending.head? = some .tick) :=
  ⟨⟨atWord 0x1200 ready, ⟨by decide, by decide, 0x200#12, by decide, by decide⟩, by decide, .inl rfl, rfl⟩,
    ⟨named (atWord 0x1200 ready), ⟨by decide, by decide, 0x200#12, by decide, by decide⟩, by decide, .inr ⟨_, _, rfl⟩, by decide⟩,
    ⟨{ atWord 0x1200 ready with pending := [.tick] }, ⟨by decide, by decide, 0x200#12, by decide, by decide⟩, by decide, rfl⟩⟩

theorem witness_KeySkipsReadTheLatch :
    ((with12 0x0F#8 0x10#8).reg 1#4).toNat ≤ 0x0F ∧ 0x0F < ((with12 0x0F#8 0x10#8).reg 2#4).toNat := by decide

theorem witness_LoadGlyphPointsAtTheFont :
    ((with12 0x0F#8 0x10#8).reg 1#4).toNat ≤ 0x0F ∧ 0x0F < ((with12 0x0F#8 0x10#8).reg 2#4).toNat := by decide

/-- Also the destinations of SubtractsSetNotBorrow and ShiftsSetTheBitShiftedOut: one that is not VF; the flag clauses hold
for X = F too. -/
theorem witness_AddSetsCarry : (0x0#4) ≠ 0xF#4 ∧ (0xE#4) ≠ 0xF#4 := by decide

theorem witness_RndMasksTheRandomByte :
    ({ ready with randomIn := some 0xB6#8 } : State).randomIn = some 0xB6#8 ∧ ready.randomIn = none := by decide

theorem witness_NamedRandomByteReachesRnd :
    ∃ s : State, s.pending = .step 0xB6#8 :: [Transaction.tick] ∧ s.Fetches (.rnd 0x3#4 0x0F#8) :=
  ⟨{ atWord 0xC30F ready with pending := [.step 0xB6#8, .tick] }, rfl, by decide, by decide, by decide, by decide⟩

theorem witness_AddIndexExactOrFatal :
    ∃ s t : State, s.i.toNat + (s.reg 2#4).toNat = 0xFFF ∧ t.i.toNat + (t.reg 2#4).toNat = 0x1000 :=
  ⟨{ with12 0#8 0xFF#8 with i := 0xF00#16 }, { with12 0#8 0xFF#8 with i := 0xF01#16 }, by decide⟩

/-- The first and the last address where three bytes fit, and their neighbours outside. -/
theorem witness_BcdStoresThreeDigits :
    80 ≤ (0x050#16).toNat ∧ (0x050#16).toNat + 2 ≤ 0xFFF ∧ (0xFFD#16).toNat + 2 ≤ 0xFFF ∧
    0xFFF < (0xFFE#16).toNat + 2 ∧ (0x04F#16).toNat ≤ 79 := by decide

/-- X = F at 0xFF0 and at 0xFF1; X = 0 at 0x050 and at 0x04F. -/
theorem witness_StoreRegistersAtIndex :
    80 ≤ (0x050#16).toNat ∧ (0xFF0#16).toNat + (0xF#4).toNat ≤ 0xFFF ∧ 0xFFF < (0xFF1#16).toNat + (0xF#4).toNat ∧
    (0x04F#16).toNat ≤ 79 := by decide

theorem witness_LoadRegistersFromIndex :
    (0xFF0#16).toNat + (0xF#4).toNat ≤ 0xFFF ∧ 0xFFF < (0xFF1#16).toNat + (0xF#4).toNat := by decide

theorem witness_StoredRegistersComeBack :
    ∃ t, exec (.ldMemVx 0x2#4) { with12 1#8 2#8 with i := 0xFFD#16 } = .next t ∧ ∃ u : State, u.mem = t.mem ∧ u.i = t.i :=
  ⟨_, rfl, _, rfl, rfl⟩

/-- N = 0 anywhere; the last sprite byte at 0xFFF, and at 0x1000; a sprite bit on a lit pixel, and one on a dark pixel. -/
theorem witness_DrawXorsTheSprite :
    (0x0#4).toNat = 0 ∧ (0xFFB#16).toNat + (0x5#4).toNat - 1 ≤ 0xFFF ∧
    (0x5#4).toNat ≠ 0 ∧ 0xFFF < (0xFFC#16).toNat + (0x5#4).toNat - 1 ∧
    ((lit 0 0 0xC0#8).SpriteOn 0#4 0#4 1#4 0 0 ∧ (lit 0 0 0xC0#8).fb.pixel 0 0 = true) ∧
    ((lit 0 0 0xC0#8).SpriteOn 0#4 0#4 1#4 1 0 ∧ (lit 0 0 0xC0#8).fb.pixel 1 0 = false) :=
  ⟨by decide, by decide, by decide, by decide,
    ⟨⟨0, 0, by decide, by decide, by decide, by decide, by decide⟩, by decide⟩,
    ⟨⟨0, 1, by decide, by decide, by decide, by decide, by decide⟩, by decide⟩⟩

/-- The state right after the first draw meets the hypotheses of the second. -/
theorem witness_DrawingTwiceRestoresTheScreen :
    ∃ t, exec (.drw 0#4 0#4 1#4) (lit 5 5 0xC0#8) = .next t ∧ t.i = (lit 5 5 0xC0#8).i ∧
      t.reg 0#4 = (lit 5 5 0xC0#8).reg 0#4 ∧ t.mem = (lit 5 5 0xC0#8).mem := ⟨_, rfl, by decide, by decide, by decide⟩

/-- No key newly pressed (key 4 held); keys 2 and 9 newly pressed, 2 the least, with a named Step. -/
theorem witness_KeyWaitPollCompletesOnANewKey :
    (∃ s : State, s.NextIsStep ∧ s.runState = .awaitKey ∧ ∀ k, ¬ s.NewlyPressed k) ∧
    (∃ s : State, s.NextIsStep ∧ s.runState = .awaitKey ∧ s.NewlyPressed 2#4 ∧
      ∀ j : Nibble, j.toNat < (2#4).toNat → ¬ s.NewlyPressed j) := by
  refine ⟨⟨{ ready with runState := .awaitKey, keys := 0x0010#16, waitPrev := 0x0010#16 }, .inl rfl, rfl, ?_⟩,
    ⟨named { ready with runState := .awaitKey, keys := 0x0204#16 }, .inr ⟨_, _, rfl⟩, rfl, ⟨by decide, by decide⟩, ?_⟩⟩ <;>
  · unfold State.NewlyPressed; decide

/-- A wait with a release, or with nothing, to come. -/
theorem witness_WaitNeedsAPressOrAReset :
    ∃ s t : State, s.runState = .awaitKey ∧ (∀ k, ¬ s.NewlyPressed k) ∧
      (∀ u, s.pending.head? = some u → u ≠ .reset ∧ u.presses = false) ∧ step s = .next t ∧ s.pending ≠ [] := by
  refine ⟨{ ready with runState := .awaitKey, keys := 0x0010#16, waitPrev := 0x0010#16, pending := [.setKey 4#4 false] }, _,
    rfl, ?_, ?_, rfl, by decide⟩
  · unfold State.NewlyPressed; decide
  · intro u h; cases h; decide

end Sys2Proof.Tests
end

section
/-! PROOFS, 30_encoding.md R104, R106: a word that decodes is the word of what it decodes to. -/

namespace Sys2Proof.Laws

/-! ### A word is the format of its own fields, its fixed fields being known -/

theorem formatA_eq {w : Word} {f : Nibble} (hf : fieldF w = f) : formatA f (fieldNNN w) = w := by
  rw [← hf, formatA_fields]

theorem formatXNN_eq {w : Word} {f : Nibble} (hf : fieldF w = f) : formatXNN f (fieldX w) (fieldNN w) = w := by
  rw [← hf, formatXNN_fields]

theorem formatXNN_eq_of_byte {w : Word} {f : Nibble} {b : Byte} (hf : fieldF w = f) (hb : fieldNN w = b) :
    formatXNN f (fieldX w) b = w := by
  rw [← hb, formatXNN_eq hf]

theorem formatXYN_eq {w : Word} {f : Nibble} (hf : fieldF w = f) :
    formatXYN f (fieldX w) (fieldY w) (fieldN w) = w := by
  rw [← hf, formatXYN_fields]

theorem formatXYN_eq_of_nibble {w : Word} {f n : Nibble} (hf : fieldF w = f) (hn : fieldN w = n) :
    formatXYN f (fieldX w) (fieldY w) n = w := by
  rw [← hn, formatXYN_eq hf]

/-! ### The families with a sub-selector -/

theorem encode_of_decode0 {w : Word} {i : Instr} (hf : fieldF w = 0x0#4) (h : decode0 w = .ok i) : encode i = w := by
  unfold decode0 at h
  split at h
  case isTrue hw => cases h; exact hw.symm
  split at h
  case isTrue hw => cases h; exact hw.symm
  cases h
  exact formatA_eq hf

theorem encode_of_decode8 {w : Word} {i : Instr} (hf : fieldF w = 0x8#4)
    (h : decode8 (fieldX w) (fieldY w) (fieldN w) = .ok i) : encode i = w := by
  unfold decode8 at h
  split at h <;> cases h <;> exact formatXYN_eq_of_nibble hf (BitVec.eq_of_toNat_eq ‹_›)

theorem encode_of_decodeE {w : Word} {i : Instr} (hf : fieldF w = 0xE#4)
    (h : decodeE (fieldX w) (fieldNN w) = .ok i) : encode i = w := by
  unfold decodeE at h
  repeat' split at h
  all_goals cases h
  all_goals exact formatXNN_eq_of_byte hf ‹_›

theorem encode_of_decodeF {w : Word} {i : Instr} (hf : fieldF w = 0xF#4)
    (h : decodeF (fieldX w) (fieldNN w) = .ok i) : encode i = w := by
  unfold decodeF at h
  repeat' split at h
  all_goals cases h
  all_goals exact formatXNN_eq_of_byte hf ‹_›

/-- No bit of a word is dropped by the decoder (R104, R106): by the family, then by its sub-selector. -/
theorem encode_of_decode {w : Word} {i : Instr} (h : decode w = .ok i) : encode i = w := by
  unfold decode at h
  split at h
  case h_1 hf => exact encode_of_decode0 (BitVec.eq_of_toNat_eq hf) h
  case h_6 hf =>
    split at h <;> cases h
    exact formatXYN_eq_of_nibble (BitVec.eq_of_toNat_eq hf) ‹_›
  case h_9 hf => exact encode_of_decode8 (BitVec.eq_of_toNat_eq hf) h
  case h_10 hf =>
    split at h <;> cases h
    exact formatXYN_eq_of_nibble (BitVec.eq_of_toNat_eq hf) ‹_›
  case h_14 hf => cases h; exact formatXYN_eq (BitVec.eq_of_toNat_eq hf)
  case h_15 hf => exact encode_of_decodeE (BitVec.eq_of_toNat_eq hf) h
  case h_16 =>
    have hlast : (fieldF w).toNat = 15 := by
      have hlt := (fieldF w).isLt
      simp only [imp_false] at *
      omega
    exact encode_of_decodeF (BitVec.eq_of_toNat_eq hlast) h
  case h_2 hf | h_3 hf | h_11 hf | h_12 hf => cases h; exact formatA_eq (BitVec.eq_of_toNat_eq hf)
  all_goals cases h; exact formatXNN_eq (BitVec.eq_of_toNat_eq ‹_›)

end Sys2Proof.Laws
end

section
/-! PROOFS, 30_encoding.md R100: what a Step can do, said once. It continues, or it takes a fatal condition and does nothing
else. -/

namespace Sys2Proof.Machine

/-! ### How an instruction and a cycle end -/

/-- No fatal condition was taken between `s` and `t`: the answer is a result of a Step that is not fatal, the block has not become
FAULTED, and the host's plans are left alone. -/
structure Continues (s t : State) : Prop where
  result : ∃ r, t.response = .step r ∧ ∀ code word pc, r ≠ .fatal code word pc
  faulted_before : t.runState = .faulted → s.runState = .faulted
  pending_kept : t.pending = s.pending
  randomIn_kept : t.randomIn = s.randomIn

/-- How the cycle ends: the block goes on, or, from RUNNING, it takes a fatal condition with the word fetched, which PcOutOfRange
does not have (R78, R302). -/
inductive CycleEnds (s : State) : State → Prop
  | continues {t : State} (h : Continues s t) : CycleEnds s t
  | outside (hr : s.runState = .running) : CycleEnds s (s.raiseFatal .pcOutOfRange none)
  | fatal {code : FatalCode} (hr : s.runState = .running) (hc : code ≠ .pcOutOfRange) :
      CycleEnds s (s.raiseFatal code (some s.fetchedWord))

/-- How an instruction ends: the block goes on, or a fatal condition is taken with the instruction's own word. -/
inductive ExecEnds (i : Instr) (s : State) : Host.Outcome State Fault Refusal → Prop
  | continues {t : State} (h : Continues s t) : ExecEnds i s (.next t)
  | fatal {code : FatalCode} (hc : code ≠ .pcOutOfRange) : ExecEnds i s (.next (s.raiseFatal code (some (encode i))))

/-! ### Ends that continue -/

theorem Continues.not_faulted {s t : State} (h : Continues s t) (hr : s.runState = .running) : t.runState ≠ .faulted :=
  fun hf => nomatch hr.symm.trans (h.faulted_before hf)

/-- An instruction that completes from `u`, where `u` differs from `s` in other fields. -/
theorem Continues.finish {s u : State} (a : Word) (hr : u.runState = s.runState) (hp : u.pending = s.pending)
    (ho : u.randomIn = s.randomIn) : Continues s (u.finish a) where
  result := ⟨.ok, rfl, nofun⟩
  faulted_before h := hr ▸ h
  pending_kept := hp
  randomIn_kept := ho

theorem Continues.reportDiag (s : State) (c : DiagCode) (w : Word) : Continues s (s.reportDiag c w) :=
  ⟨⟨_, rfl, nofun⟩, id, rfl, rfl⟩

theorem Continues.hostError (s : State) (c : HostErrorCode) : Continues s (s.hostError c) :=
  ⟨⟨_, rfl, nofun⟩, id, rfl, rfl⟩

theorem Continues.enterKeyWait (s : State) (x : Nibble) : Continues s (s.enterKeyWait x) :=
  ⟨⟨.ok, rfl, nofun⟩, nofun, rfl, rfl⟩

theorem Continues.keyWaitPoll (s : State) : Continues s s.keyWaitPoll := by
  unfold State.keyWaitPoll
  split
  · exact .finish _ rfl rfl rfl
  · exact ⟨⟨.ok, rfl, nofun⟩, nofun, rfl, rfl⟩

theorem Continues.setRegsFrom_advance (s : State) (k : Nat) (bs : List Byte) : Continues s (s.setRegsFrom k bs).advance := by
  obtain ⟨v', hv⟩ := s.setRegsFrom_eq bs k
  rw [hv]
  exact .finish _ rfl rfl rfl

/-! ### Checks: PcOutOfRange is raised by the fetch alone (R302) -/

theorem digitIndex_ne_pcOutOfRange {b : Byte} {code : FatalCode} (h : digitIndex b = .error code) :
    code ≠ .pcOutOfRange := by
  unfold digitIndex at h
  split at h <;> cases h
  nofun

theorem indexSum_ne_pcOutOfRange {i : Word} {b : Byte} {code : FatalCode} (h : indexSum i b = .error code) :
    code ≠ .pcOutOfRange := by
  unfold indexSum at h
  split at h <;> cases h
  nofun

theorem checkRead_ne_pcOutOfRange {base n : Nat} {code : FatalCode} (h : checkRead base n = some code) :
    code ≠ .pcOutOfRange := by
  rw [checkRead_eq] at h
  split at h <;> cases h
  nofun

theorem checkWrite_ne_pcOutOfRange {base n : Nat} {code : FatalCode} (h : checkWrite base n = some code) :
    code ≠ .pcOutOfRange := by
  rw [checkWrite_eq] at h
  split at h
  · cases h; nofun
  · split at h <;> cases h
    nofun

/-! ### Instructions that check before they write -/

theorem execRet_ends (s : State) : ExecEnds .ret s (execRet s) := by
  unfold execRet
  by_cases h : s.sp.val = 0
  · rw [s.pop_underflow h]; exact .fatal nofun
  · rw [s.pop_ok h]; exact .continues (.finish _ rfl rfl rfl)

theorem execCall_ends (nnn : Addr) (s : State) : ExecEnds (.call nnn) s (execCall nnn s) := by
  unfold execCall
  by_cases h : s.sp.val < 16
  · rw [s.push_ok _ h]; exact .continues (.finish _ rfl rfl rfl)
  · rw [s.push_overflow _ (by omega)]; exact .fatal nofun

theorem execSkp_ends (x : Nibble) (s : State) : ExecEnds (.skp x) s (execSkp x s) := by
  unfold execSkp
  split
  next h => exact .fatal (digitIndex_ne_pcOutOfRange h)
  next => exact .continues (.finish _ rfl rfl rfl)

theorem execSknp_ends (x : Nibble) (s : State) : ExecEnds (.sknp x) s (execSknp x s) := by
  unfold execSknp
  split
  next h => exact .fatal (digitIndex_ne_pcOutOfRange h)
  next => exact .continues (.finish _ rfl rfl rfl)

theorem execLdF_ends (x : Nibble) (s : State) : ExecEnds (.ldF x) s (execLdF x s) := by
  unfold execLdF
  split
  next h => exact .fatal (digitIndex_ne_pcOutOfRange h)
  next => exact .continues (.finish _ rfl rfl rfl)

theorem execAddI_ends (x : Nibble) (s : State) : ExecEnds (.addI x) s (execAddI x s) := by
  unfold execAddI
  split
  next h => exact .fatal (indexSum_ne_pcOutOfRange h)
  next => exact .continues (.finish _ rfl rfl rfl)

theorem execDrw_ends (x y n : Nibble) (s : State) : ExecEnds (.drw x y n) s (execDrw x y n s) := by
  unfold execDrw
  split
  next h => exact .fatal (checkRead_ne_pcOutOfRange h)
  next => exact .continues (.finish _ rfl rfl rfl)

theorem execLdVxMem_ends (x : Nibble) (s : State) : ExecEnds (.ldVxMem x) s (execLdVxMem x s) := by
  unfold execLdVxMem
  split
  next h => exact .fatal (checkRead_ne_pcOutOfRange h)
  next => exact .continues (.setRegsFrom_advance s 0 _)

/-- A store at I, of any bytes, for the instruction whose word is given. -/
theorem storeAtIndex_ends (i : Instr) (bytes : List Byte) (s : State) :
    ExecEnds i s (.next (s.storeAtIndex bytes (encode i))) := by
  cases h : checkWrite s.i.toNat bytes.length with
  | none => rw [s.storeAtIndex_ok _ _ h]; exact .continues (.finish _ rfl rfl rfl)
  | some code => rw [s.storeAtIndex_fatal _ _ _ h]; exact .fatal (checkWrite_ne_pcOutOfRange h)

/-! ### Every instruction, every cycle, every Step -/

/-- All that an instruction can do (R113, R310). The ones left to the last line check nothing and complete. -/
theorem exec_ends (i : Instr) (s : State) : ExecEnds i s (exec i s) := by
  cases i with
  | sys nnn => exact .continues (.reportDiag s _ _)
  | ret => exact execRet_ends s
  | call nnn => exact execCall_ends nnn s
  | drw x y n => exact execDrw_ends x y n s
  | skp x => exact execSkp_ends x s
  | sknp x => exact execSknp_ends x s
  | ldVxK x => exact .continues (.enterKeyWait s x)
  | addI x => exact execAddI_ends x s
  | ldF x => exact execLdF_ends x s
  | ldB x => exact storeAtIndex_ends (.ldB x) _ s
  | ldMemVx x => exact storeAtIndex_ends (.ldMemVx x) _ s
  | ldVxMem x => exact execLdVxMem_ends x s
  | _ => exact .continues (.finish _ rfl rfl rfl)

theorem runCycle_ends {s : State} (hr : s.runState = .running) : ∃ t, runCycle s = .next t ∧ CycleEnds s t := by
  cases hf : s.fetchable with
  | false => exact ⟨_, runCycle_outside hf, .outside hr⟩
  | true =>
    cases hd : decode s.fetchedWord with
    | error u => exact ⟨_, runCycle_unknown hf hd, .continues (.reportDiag s _ _)⟩
    | ok i =>
      rw [runCycle_exec hf hd]
      have hends := exec_ends i s
      generalize exec i s = o at hends ⊢
      cases hends with
      | continues h => exact ⟨_, rfl, .continues h⟩
      | fatal hc => rw [Laws.encode_of_decode hd]; exact ⟨_, rfl, .fatal hr hc⟩

theorem cycle_ends (s : State) : ∃ t, cycle s = .next t ∧ CycleEnds s t := by
  cases hr : s.runState with
  | unloaded => exact ⟨_, cycle_unloaded hr, .continues (.hostError s _)⟩
  | faulted => exact ⟨_, cycle_faulted hr, .continues (.hostError s _)⟩
  | awaitKey => exact ⟨_, cycle_awaitKey hr, .continues (.keyWaitPoll s)⟩
  | running => rw [cycle_running hr]; exact runCycle_ends hr

theorem CycleEnds.pending_kept {s t : State} (h : CycleEnds s t) : t.pending = s.pending := by
  cases h with
  | continues h => exact h.pending_kept
  | outside | fatal => rfl

theorem CycleEnds.randomIn_kept {s t : State} (h : CycleEnds s t) : t.randomIn = s.randomIn := by
  cases h with
  | continues h => exact h.randomIn_kept
  | outside | fatal => rfl

/-- The cycle does not depend on the host's plans: how it ends is the same with others before and after it. -/
theorem CycleEnds.withHost {s t : State} (h : CycleEnds s t) (p : List Transaction) (o : Option Byte) :
    CycleEnds { s with pending := p, randomIn := o } { t with pending := p, randomIn := o } := by
  cases h with
  | continues h => exact .continues ⟨h.result, h.faulted_before, rfl, rfl⟩
  | outside hr => exact .outside (s := { s with pending := p, randomIn := o }) hr
  | fatal hr hc => exact .fatal (s := { s with pending := p, randomIn := o }) hr hc

/-- All that a Step can do, named byte or not (R100): it ends as the cycle does, from the state with the Step taken off the
host's list. -/
theorem step_ends {s : State} (hs : s.NextIsStep) : ∃ t, step s = .next t ∧ CycleEnds s.stepDone t := by
  obtain ⟨u, ⟨p, o, rfl⟩, hstep⟩ := step_of_nextIsStep hs
  obtain ⟨t, ht, hends⟩ := cycle_ends { s with pending := p, randomIn := o }
  refine ⟨_, hstep t ht hends.pending_kept hends.randomIn_kept, ?_⟩
  obtain ⟨p', o', hd⟩ := s.stepDone_block
  rw [hd]
  exact hends.withHost p' o'

/-- The same, of the state a Step is known to answer. -/
theorem step_ends_of_eq {s t : State} (hs : s.NextIsStep) (ht : step s = .next t) : CycleEnds s.stepDone t := by
  obtain ⟨t', ht', hends⟩ := step_ends hs
  cases ht.symm.trans ht'
  exact hends

@[simp] theorem State.stepDone_runState (s : State) : s.stepDone.runState = s.runState := by
  obtain ⟨p, o, hd⟩ := s.stepDone_block
  rw [hd]

@[simp] theorem State.stepDone_fetchedWord (s : State) : s.stepDone.fetchedWord = s.fetchedWord := by
  obtain ⟨p, o, hd⟩ := s.stepDone_block
  rw [hd]
  rfl

/-! ### A cycle whose instruction is known -/

/-- The word fetched decodes as its two bytes do (20_memory.md R77). -/
theorem decode_fetchedWord_of_decodeBytes {s : State} {i : Instr}
    (h : decodeBytes [s.mem.read s.pc.toNat, s.mem.read (s.pc.toNat + 1)] = .ok (i, [])) : decode s.fetchedWord = .ok i := by
  rw [decodeBytes] at h
  split at h
  next hd => cases h; exact hd
  next => cases h

/-- A RUNNING block whose fetch gives `i` runs `i` (R100). -/
theorem State.Fetches.cycle_eq {s : State} {i : Instr} (h : s.Fetches i) : cycle s = exec i s := by
  obtain ⟨hr, hlo, hhi, hd⟩ := h
  have hf : s.fetchable = true := s.fetchable_iff.2 ⟨hlo, by omega⟩
  rw [cycle_running hr, runCycle_exec hf (decode_fetchedWord_of_decodeBytes hd)]

/-- A Step with a named byte runs the instruction fetched with that byte, which is gone afterwards (00_scope.md R9). -/
theorem State.Fetches.step_named_eq {s : State} {i : Instr} (h : s.Fetches i) {r : Byte} {rest : List Transaction}
    (hp : s.pending = .step r :: rest) :
    step s = dropRandom (exec i { s with pending := rest, randomIn := some r }) := by
  have hu : State.Fetches { s with pending := rest, randomIn := some r } i := h
  rw [step_named hp, hu.cycle_eq]

end Sys2Proof.Machine
end

section
/-! PROOFS, the statements of 00_scope.md. -/

namespace Sys2Proof.Proofs

open Sys2Proof.Machine

/-- Settles O12: the ends of a Step (`step_ends_of_eq`) are the fatal ones, which are taken from RUNNING, and the ones that continue. -/
theorem stepAnswersOneResult : Obligations.StepAnswersOneResult := by
  unfold Obligations.StepAnswersOneResult
  intro s t hs ht
  cases step_ends_of_eq hs ht with
  | continues h =>
    obtain ⟨r, hres, hnot⟩ := h.result
    refine ⟨r, hres, fun ⟨code, word, pc, he⟩ => absurd he (hnot code word pc), fun ⟨hrun, hfault⟩ => ?_⟩
    exact absurd hfault (h.not_faulted (s.stepDone_runState.trans hrun))
  | outside hr => exact ⟨_, rfl, fun _ => ⟨s.stepDone_runState.symm.trans hr, rfl⟩, fun _ => ⟨_, _, _, rfl⟩⟩
  | fatal hr => exact ⟨_, rfl, fun _ => ⟨s.stepDone_runState.symm.trans hr, rfl⟩, fun _ => ⟨_, _, _, rfl⟩⟩

/-- Settles O16: a Step that ends FAULTED from RUNNING did not continue, and the other ends of `step_ends_of_eq` are the record alone. -/
theorem fatalStepWritesOnlyTheRecord : Obligations.FatalStepWritesOnlyTheRecord := by
  unfold Obligations.FatalStepWritesOnlyTheRecord
  intro s t hs hrun ht hfault
  cases step_ends_of_eq hs ht with
  | continues h => exact absurd hfault (h.not_faulted (s.stepDone_runState.trans hrun))
  | outside => exact ⟨_, _, s.stepDone.raiseFatal_tookFatal _ _, fun _ => rfl, fun h => absurd rfl h⟩
  | fatal _ hc =>
    exact ⟨_, _, s.stepDone.raiseFatal_tookFatal _ _, fun h => absurd h hc, fun _ => by rw [s.stepDone_fetchedWord]⟩

/-- Settles O43: the Step is RND itself, run with the named byte. -/
theorem namedRandomByteReachesRnd : Obligations.NamedRandomByteReachesRnd := by
  unfold Obligations.NamedRandomByteReachesRnd
  intro x nn r s rest hp hfetch
  refine ⟨_, hfetch.step_named_eq hp, ?_, rfl, rfl, rfl⟩
  exact State.reg_setReg_same _ x (r &&& nn)

end Sys2Proof.Proofs
end

section
/-! PROOFS, 10_state.md: what an instruction can do to the state, said once. It makes writes of its own and ends at a bounded target,
or it reports a diagnostic, enters the key-wait or takes a fatal condition. Frames and the invariant are read off from that. -/

namespace Sys2Proof.Machine

/-! ### The writes and the ends of an instruction -/

/-- `Writes i s u`: the state `u` is reached from `s` by writes that instruction `i` may make before it completes. -/
inductive Writes (i : Instr) (s : State) : State → Prop
  | start : Writes i s s
  | reg {u : State} (hu : Writes i s u) {x : Nibble} (hx : x ∈ destRegs i ++ flagRegs i) (b : Byte) : Writes i s (u.setReg x b)
  | index {u : State} (hu : Writes i s u) (hp : .index ∈ partsWritten i) {a : Word} (ha : a.toNat ≤ 0xFFF) :
      Writes i s (u.setIndex a)
  | memory {u : State} (hu : Writes i s u) (hlo : 80 ≤ s.i.toNat) (hhi : s.i.toNat + storeCount i ≤ 0x1000) {bytes : List Byte}
      (hn : bytes.length = storeCount i) : Writes i s (u.setMem (u.mem.writeRange s.i.toNat bytes))
  | stack {u : State} (hu : Writes i s u) (hp : .stack ∈ partsWritten i) (sp : Fin 17) {entries : Vector Word 16}
      (hk : ∀ (k : Nat) (a : Word), entries[k]? = some a → a = s.pc + 2#16 ∨ s.stack[k]? = some a) :
      Writes i s { u with stack := entries, sp := sp }
  | delay {u : State} (hu : Writes i s u) (hp : .timers ∈ partsWritten i) (b : Byte) : Writes i s (u.setDelay b)
  | sound {u : State} (hu : Writes i s u) (hp : .timers ∈ partsWritten i) (b : Byte) : Writes i s (u.setSound b)
  | display {u : State} (hu : Writes i s u) (hp : .display ∈ partsWritten i) (fb : Framebuffer) (c : Bool) :
      Writes i s (u.setDisplay fb c)
  | drawn {u : State} (hu : Writes i s u) (hp : .host ∈ partsWritten i) : Writes i s u.drawn

/-- Where an instruction that completes leaves the pc (R35, R36). -/
inductive Target (s : State) : Word → Prop
  | next : Target s (s.pc + 2#16)
  | skip : Target s (s.pc + 4#16)
  | jump {a : Word} (ha : a.toNat ≤ 0x10FE) : Target s a
  | entry {k : Nat} {a : Word} (ha : s.stack[k]? = some a) : Target s a

/-- What an instruction answers: the state after its writes, at its target, or one of the three other ends. -/
inductive ExecWrites (i : Instr) (s : State) : Host.Outcome State Fault Refusal → Prop
  | finish {u : State} {a : Word} (hu : Writes i s u) (ha : Target s a) : ExecWrites i s (.next (u.finish a))
  | reportDiag (c : DiagCode) (w : Word) : ExecWrites i s (.next (s.reportDiag c w))
  | enterKeyWait (hp : .control ∈ partsWritten i) (x : Nibble) : ExecWrites i s (.next (s.enterKeyWait x))
  | fatal (c : FatalCode) (w : Option Word) : ExecWrites i s (.next (s.raiseFatal c w))

section
variable {i : Instr} {s u : State}

/-- The pc and run_state belong to the end of an instruction, not to its writes. -/
theorem Writes.pc_runState_kept (hu : Writes i s u) : u.pc = s.pc ∧ u.runState = s.runState := by
  induction hu with
  | start => exact ⟨rfl, rfl⟩
  | reg _ _ _ ih | index _ _ _ ih | memory _ _ _ _ ih | stack _ _ _ _ ih | delay _ _ _ ih | sound _ _ _ ih
  | display _ _ _ _ ih | drawn _ _ ih => exact ih

theorem Writes.dest (hu : Writes i s u) {x : Nibble} (hx : x ∈ destRegs i) (b : Byte) : Writes i s (u.setReg x b) :=
  hu.reg (List.mem_append_left _ hx) b

theorem Writes.flag (hu : Writes i s u) (hx : 0xF#4 ∈ flagRegs i) (b : Byte) : Writes i s (u.setFlag b) :=
  hu.reg (List.mem_append_right _ hx) b

theorem Writes.resultAndFlag (hu : Writes i s u) {x : Nibble} (hx : x ∈ destRegs i) (hf : 0xF#4 ∈ flagRegs i) (b f : Byte) :
    Writes i s (u.setResultAndFlag x b f) :=
  (hu.dest hx b).flag hf f

/-- A run of registers that are all destinations. -/
theorem Writes.setRegsFrom (bs : List Byte) {k : Nat} (hu : Writes i s u)
    (hk : ∀ j, j < k + bs.length → BitVec.ofNat 4 j ∈ destRegs i) : Writes i s (u.setRegsFrom k bs) := by
  induction bs generalizing u k with
  | nil => exact hu
  | cons b bs ih =>
    rw [List.length_cons] at hk
    exact ih (hu.dest (hk k (by omega)) b) fun j hj => hk j (by omega)

theorem ExecWrites.advance (hu : Writes i s u) : ExecWrites i s (.next u.advance) := by
  rw [u.advance_eq, hu.pc_runState_kept.left]
  exact .finish hu .next

theorem ExecWrites.skipIf (c : Bool) : ExecWrites i s (.next (s.skipIf c)) := by
  cases c with
  | false => exact .finish .start .next
  | true => exact .finish .start .skip

end

/-! ### Instructions that check before they write -/

theorem execRet_writes (s : State) : ExecWrites .ret s (execRet s) := by
  unfold execRet
  by_cases h : s.sp.val = 0
  · rw [s.pop_underflow h]
    exact .fatal _ _
  · rw [s.pop_ok h]
    exact .finish (Writes.start.stack (List.mem_singleton_self _) _ fun _ _ hk => .inr hk)
      (.entry (Vector.getElem?_eq_getElem (by omega)))

theorem execCall_writes (nnn : Addr) (s : State) : ExecWrites (.call nnn) s (execCall nnn s) := by
  unfold execCall
  by_cases h : s.sp.val < 16
  · rw [s.push_ok _ h]
    refine .finish (Writes.start.stack (List.mem_singleton_self _) _ fun k a hk => ?_) (.jump ?_)
    · rw [Vector.getElem?_set] at hk
      split at hk
      · exact .inl (Option.some.inj hk).symm
      · exact .inr hk
    · have := addrWord_toNat nnn
      omega
  · rw [s.push_overflow _ (by omega)]
    exact .fatal _ _

theorem execSkp_writes (x : Nibble) (s : State) : ExecWrites (.skp x) s (execSkp x s) := by
  unfold execSkp
  split
  · exact .fatal _ _
  · exact .skipIf _

theorem execSknp_writes (x : Nibble) (s : State) : ExecWrites (.sknp x) s (execSknp x s) := by
  unfold execSknp
  split
  · exact .fatal _ _
  · exact .skipIf _

theorem execLdF_writes (x : Nibble) (s : State) : ExecWrites (.ldF x) s (execLdF x s) := by
  unfold execLdF
  split
  · exact .fatal _ _
  next d _ =>
    have := glyphAddr_toNat d
    exact .advance (Writes.start.index (List.mem_singleton_self _) (by omega))

theorem indexSum_ok_le {i a : Word} {b : Byte} (h : indexSum i b = .ok a) : a.toNat ≤ 0xFFF := by
  by_cases hs : i.toNat + b.toNat ≤ 0xFFF
  · rw [indexSum_ok i b hs] at h
    cases h
    rw [BitVec.toNat_ofNat]
    omega
  · rw [indexSum_error i b (by omega)] at h
    cases h

theorem execAddI_writes (x : Nibble) (s : State) : ExecWrites (.addI x) s (execAddI x s) := by
  unfold execAddI
  split
  · exact .fatal _ _
  next h => exact .advance (Writes.start.index (List.mem_singleton_self _) (indexSum_ok_le h))

theorem execDrw_writes (x y n : Nibble) (s : State) : ExecWrites (.drw x y n) s (execDrw x y n s) := by
  unfold execDrw
  split
  · exact .fatal _ _
  · have hp : Part.display ∈ partsWritten (.drw x y n) := List.mem_singleton_self _
    exact .advance (((Writes.start.display hp _ _).display hp _ _).flag (List.mem_singleton_self _) _)

theorem execLdVxMem_writes (x : Nibble) (s : State) : ExecWrites (.ldVxMem x) s (execLdVxMem x s) := by
  unfold execLdVxMem
  split
  · exact .fatal _ _
  · refine .advance (Writes.start.setRegsFrom _ fun j hj => List.mem_map_of_mem (List.mem_range.2 ?_))
    simpa using hj

/-- A store at I of as many bytes as the instruction stores. -/
theorem storeAtIndex_writes {i : Instr} {bytes : List Byte} (hn : bytes.length = storeCount i) (hpos : 0 < storeCount i)
    (w : Word) (s : State) : ExecWrites i s (.next (s.storeAtIndex bytes w)) := by
  cases h : checkWrite s.i.toNat bytes.length with
  | none =>
    rw [s.storeAtIndex_ok _ _ h]
    have hrange := (checkWrite_eq_none _ _).1 h
    exact .finish (Writes.start.memory (by omega) (by omega) hn) .next
  | some code =>
    rw [s.storeAtIndex_fatal _ _ _ h]
    exact .fatal _ _

/-! ### Every instruction -/

/-- All the writes that an instruction can make (R31, R32, R34, R39, R43, R44, R48). -/
theorem exec_writes (i : Instr) (s : State) : ExecWrites i s (exec i s) := by
  cases i with
  | sys nnn => exact .reportDiag _ _
  | cls => exact .advance (Writes.start.display (List.mem_singleton_self _) _ _)
  | ret => exact execRet_writes s
  | jp nnn =>
    have := addrWord_toNat nnn
    exact .finish .start (.jump (by omega))
  | call nnn => exact execCall_writes nnn s
  | jpV0 nnn =>
    have := offsetTarget_toNat nnn (s.reg 0x0#4)
    exact .finish .start (.jump (by omega))
  | seImm | sneImm | seReg | sneReg => exact .skipIf _
  | skp x => exact execSkp_writes x s
  | sknp x => exact execSknp_writes x s
  | ldImm | addImm | ldReg | orReg | andReg | xorReg | ldVxDt =>
    exact .advance (Writes.start.dest (List.mem_singleton_self _) _)
  | addReg | sub | shr | subn | shl =>
    exact .advance (Writes.start.resultAndFlag (List.mem_singleton_self _) (List.mem_singleton_self _) _ _)
  | rnd => exact .advance ((Writes.start.dest (List.mem_singleton_self _) _).drawn (List.mem_singleton_self _))
  | ldI nnn =>
    have := addrWord_toNat nnn
    exact .advance (Writes.start.index (List.mem_singleton_self _) (by omega))
  | addI x => exact execAddI_writes x s
  | ldF x => exact execLdF_writes x s
  | ldB x => exact storeAtIndex_writes (bcdDigits_length _) (by simp [storeCount]) _ s
  | ldMemVx x => exact storeAtIndex_writes (s.regsUpTo_length x) (by simp [storeCount]) _ s
  | ldVxMem x => exact execLdVxMem_writes x s
  | drw x y n => exact execDrw_writes x y n s
  | ldVxK x => exact .enterKeyWait (List.mem_singleton_self _) x
  | ldDtVx => exact .advance (Writes.start.delay (List.mem_singleton_self _) _)
  | ldStVx => exact .advance (Writes.start.sound (List.mem_singleton_self _) _)

/-- The same, of the state an instruction is known to answer. -/
theorem exec_writes_of_eq {i : Instr} {s t : State} (h : exec i s = .next t) : ExecWrites i s (.next t) :=
  h ▸ exec_writes i s

/-! ### The frame of the writes -/

section
variable {i : Instr} {s u : State}

theorem frame_refl (ps : List Part) (xs : List Nibble) (s : State) : Frame ps xs s s :=
  ⟨fun _ _ => rfl, rfl, fun _ => rfl, fun _ _ => rfl, fun _ => ⟨rfl, rfl⟩, fun _ => ⟨rfl, rfl⟩, fun _ => ⟨rfl, rfl⟩,
    fun _ => ⟨rfl, rfl, rfl, rfl⟩, fun _ => ⟨rfl, rfl, rfl⟩⟩

/-- Each write is of a register or a part that the instruction names; memory is left out (see `Writes.memory`). -/
theorem Writes.frame (hu : Writes i s u) : Frame (.memory :: partsWritten i) (destRegs i ++ flagRegs i) s u := by
  induction hu with
  | start => exact frame_refl _ _ s
  | reg _ hx b ih =>
    obtain ⟨regs, rest⟩ := ih
    refine ⟨fun r hr => ?_, rest⟩
    rw [State.reg_setReg_other _ b (ne_of_mem_of_not_mem hx hr).symm]
    exact regs r hr
  | index _ hp _ ih =>
    obtain ⟨regs, keys, -, rest⟩ := ih
    exact ⟨regs, keys, fun hn => absurd (.tail _ hp) hn, rest⟩
  | memory _ _ _ _ ih =>
    obtain ⟨regs, keys, index, -, rest⟩ := ih
    exact ⟨regs, keys, index, fun hn => absurd (.head _) hn, rest⟩
  | stack _ hp _ _ ih =>
    obtain ⟨regs, keys, index, memory, -, rest⟩ := ih
    exact ⟨regs, keys, index, memory, fun hn => absurd (.tail _ hp) hn, rest⟩
  | delay _ hp _ ih | sound _ hp _ ih =>
    obtain ⟨regs, keys, index, memory, stack, -, rest⟩ := ih
    exact ⟨regs, keys, index, memory, stack, fun hn => absurd (.tail _ hp) hn, rest⟩
  | display _ hp _ _ ih =>
    obtain ⟨regs, keys, index, memory, stack, timers, -, rest⟩ := ih
    exact ⟨regs, keys, index, memory, stack, timers, fun hn => absurd (.tail _ hp) hn, rest⟩
  | drawn _ hp ih =>
    obtain ⟨regs, keys, index, memory, stack, timers, display, control, -⟩ := ih
    exact ⟨regs, keys, index, memory, stack, timers, display, control, fun hn => absurd (.tail _ hp) hn⟩

/-- The key-wait is entered by writing the control part alone. -/
theorem enterKeyWait_frame (s : State) (x : Nibble) {ps : List Part} (hp : .control ∈ ps) (xs : List Nibble) :
    Frame ps xs s (s.enterKeyWait x) := by
  obtain ⟨regs, keys, index, memory, stack, timers, display, -, host⟩ := frame_refl ps xs s
  exact ⟨regs, keys, index, memory, stack, timers, display, fun hn => absurd hp hn, host⟩

/-- The frame of an instruction that takes no fatal condition, and the record of one that does. -/
theorem ExecWrites.frame_or_fatal {t : State} (h : ExecWrites i s (.next t)) :
    Frame (.memory :: partsWritten i) (destRegs i ++ flagRegs i) s t ∨ ∃ c w, t = s.raiseFatal c w := by
  cases h with
  | finish hu => exact .inl hu.frame
  | reportDiag => exact .inl (frame_refl _ _ s)
  | enterKeyWait hp x => exact .inl (enterKeyWait_frame s x (.tail _ hp) _)
  | fatal c w => exact .inr ⟨c, w, rfl⟩

end

end Sys2Proof.Machine
end

section
/-! PROOFS, 10_state.md R34, R36, R50, 20_memory.md R72: the invariant through an instruction, a cycle and a host transaction. -/

namespace Sys2Proof.Machine

/-- The invariant with no clause on the random byte, as it holds while a Step is performed with the byte the host named. -/
def State.BlockInv (s : State) : Prop := State.Inv { s with randomIn := none }

theorem State.Inv.blockInv {s : State} (h : s.Inv) : s.BlockInv := { h with noRandomLeft := rfl }

theorem State.BlockInv.inv {s : State} (h : s.BlockInv) (hr : s.randomIn = none) : s.Inv := { h with noRandomLeft := hr }

/-! ### Memory -/

/-- Bytes stored from an address above the font table to an address that exists keep memory canonical and the font intact. -/
theorem State.BlockInv.writeRange {s : State} (h : s.BlockInv) {base : Nat} (hlo : 80 ≤ base) {bytes : List Byte}
    (hhi : base + bytes.length ≤ 0x1000) : State.BlockInv { s with mem := s.mem.writeRange base bytes } where
  __ := h
  memWf := Memory.writeRange_wf bytes h.memWf hhi
  fontIntact a ha := by
    have hfont := (isFontAddr_iff a).1 ha
    exact (Memory.read_writeRange_outside bytes s.mem (.inl (by omega))).trans (h.fontIntact a ha)

/-! ### run_state -/

/-- A block that is not FAULTED has no record, and may go to any other run_state but FAULTED. -/
theorem State.BlockInv.setRunState {s : State} (h : s.BlockInv) (hs : s.runState ≠ .faulted) {r : RunState} (hr : r ≠ .faulted)
    (hw : r = .awaitKey → 0x200 ≤ s.pc.toNat ∧ s.pc.toNat ≤ 0xFFE) : State.BlockInv { s with runState := r } where
  __ := h
  faultIffFaulted := iff_of_false (fun hf => hs (h.faultIffFaulted.1 hf)) hr
  waitFetchable := hw

/-! ### The ends of a Step -/

theorem State.BlockInv.raiseFatal {s : State} (h : s.BlockInv) (c : FatalCode) (w : Option Word) :
    (s.raiseFatal c w).BlockInv where
  __ := h
  faultIffFaulted := by simp
  waitFetchable := nofun

/-- A RUNNING block is left RUNNING at any target within R36. -/
theorem State.BlockInv.finish {s : State} (h : s.BlockInv) (hr : s.runState = .running) {a : Word} (ha : a.toNat ≤ 0x10FE) :
    (s.finish a).BlockInv where
  __ := h
  pcBounded := ha
  waitFetchable hw := nomatch hr.symm.trans hw

theorem State.BlockInv.reportDiag {s : State} (h : s.BlockInv) (hr : s.runState = .running) (hpc : s.pc.toNat ≤ 0xFFE)
    (c : DiagCode) (w : Word) : (s.reportDiag c w).BlockInv where
  __ := h.finish hr (a := s.pc + 2#16) (by bv_omega)

theorem State.BlockInv.enterKeyWait {s : State} (h : s.BlockInv) (hr : s.runState = .running) (hf : s.fetchable = true)
    (x : Nibble) : (s.enterKeyWait x).BlockInv where
  __ := h.setRunState (r := .awaitKey) (by simp [hr]) nofun fun _ => s.fetchable_iff.1 hf

/-- A wait that completes leaves the block RUNNING 2 above its FX0A. -/
theorem State.BlockInv.completeKeyWait {s : State} (h : s.BlockInv) (hr : s.runState = .awaitKey) (k : Nat) :
    (s.completeKeyWait k).BlockInv := by
  obtain ⟨-, hpc⟩ := h.waitFetchable hr
  have hrun : State.BlockInv { s with runState := .running } := h.setRunState (by simp [hr]) nofun nofun
  exact { hrun.finish rfl (a := s.pc + 2#16) (by bv_omega) with }

/-! ### An instruction -/

section
variable {i : Instr} {s : State}

/-- The writes of an instruction keep the invariant, where the word after it is a return address within R36. -/
theorem Writes.blockInv {u : State} (hu : Writes i s u) (h : s.BlockInv) (hpc : s.pc.toNat ≤ 0xFFE) : u.BlockInv := by
  induction hu with
  | start => exact h
  | index _ _ ha ih => exact { ih with indexInRange := ha }
  | memory _ hlo hhi hn ih => exact ih.writeRange hlo (hn ▸ hhi)
  | stack _ _ _ hk ih =>
    refine { ih with returnsBounded := fun k a hka => ?_ }
    obtain rfl | hold := hk k a hka
    · bv_omega
    · exact h.returnsBounded k a hold
  | reg _ _ _ ih | delay _ _ _ ih | sound _ _ _ ih | display _ _ _ _ ih | drawn _ _ ih => exact { ih with }

/-- Every target is within R36: 2 or 4 above an address fetched from, a jump's own, or a return address. -/
theorem Target.le {a : Word} (ha : Target s a) (h : s.BlockInv) (hpc : s.pc.toNat ≤ 0xFFE) : a.toNat ≤ 0x10FE := by
  cases ha with
  | next | skip => bv_omega
  | jump ha => exact ha
  | entry ha => exact (h.returnsBounded _ _ ha).trans (by decide)

/-- An instruction keeps the invariant wherever it was fetched from. -/
theorem ExecWrites.blockInv {t : State} (hx : ExecWrites i s (.next t)) (h : s.BlockInv) (hr : s.runState = .running)
    (hf : s.fetchable = true) : t.BlockInv := by
  obtain ⟨-, hpc⟩ := s.fetchable_iff.1 hf
  cases hx with
  | finish hu ha => exact (hu.blockInv h hpc).finish (hu.pc_runState_kept.right.trans hr) (ha.le h hpc)
  | reportDiag c w => exact h.reportDiag hr hpc c w
  | enterKeyWait _ x => exact h.enterKeyWait hr hf x
  | fatal c w => exact h.raiseFatal c w

/-! ### A cycle -/

theorem runCycle_blockInv {t : State} (h : s.BlockInv) (hr : s.runState = .running) (ht : runCycle s = .next t) :
    t.BlockInv := by
  cases hf : s.fetchable with
  | false =>
    rw [runCycle_outside hf] at ht
    cases ht
    exact h.raiseFatal _ _
  | true =>
    cases hd : decode s.fetchedWord with
    | error u =>
      rw [runCycle_unknown hf hd] at ht
      cases ht
      exact h.reportDiag hr (s.fetchable_iff.1 hf).2 _ _
    | ok i =>
      rw [runCycle_exec hf hd] at ht
      exact (exec_writes_of_eq ht).blockInv h hr hf

theorem keyWaitPoll_blockInv (h : s.BlockInv) (hr : s.runState = .awaitKey) : s.keyWaitPoll.BlockInv := by
  unfold State.keyWaitPoll
  split
  · exact { h with }
  · exact h.completeKeyWait hr _

/-- The cycle keeps the invariant, by run_state (R100). -/
theorem cycle_blockInv {t : State} (h : s.BlockInv) (ht : cycle s = .next t) : t.BlockInv := by
  cases hr : s.runState with
  | unloaded =>
    rw [cycle_unloaded hr] at ht
    cases ht
    exact { h with }
  | faulted =>
    rw [cycle_faulted hr] at ht
    cases ht
    exact { h with }
  | awaitKey =>
    rw [cycle_awaitKey hr] at ht
    cases ht
    exact keyWaitPoll_blockInv h hr
  | running =>
    rw [cycle_running hr] at ht
    exact runCycle_blockInv h hr ht

/-- A Step whose byte the host does not name. -/
theorem cycle_inv {t : State} (h : s.Inv) (ht : cycle s = .next t) : t.Inv := by
  obtain ⟨t', ht', hends⟩ := cycle_ends s
  cases ht.symm.trans ht'
  exact (cycle_blockInv h.blockInv ht).inv (hends.randomIn_kept.trans h.noRandomLeft)

/-! ### The host's transactions -/

/-- A Step whose byte the host names: whatever the cycle does with it, it is gone afterwards (R52). -/
theorem namedStep_inv {t : State} (h : s.Inv) {r : Byte} (ht : transact (.step r) s = .next t) : t.Inv := by
  obtain ⟨t', ht', -⟩ := cycle_ends { s with randomIn := some r }
  rw [transact, ht', dropRandom_next] at ht
  cases ht
  have hs : State.BlockInv { s with randomIn := some r } := h.blockInv
  exact cycle_blockInv hs ht'

theorem resetBlock_inv (h : s.randomIn = none) : s.resetBlock.Inv where
  memWf := Memory.nil_wf
  fontIntact _ _ := rfl
  indexInRange := (by decide : State.reset.i.toNat ≤ 0xFFF)
  pcBounded := (by decide : State.reset.pc.toNat ≤ 0x10FE)
  returnsBounded k a hk := by
    obtain ⟨-, rfl⟩ : k < 16 ∧ 0x0000#16 = a := by simpa [State.resetBlock, State.reset, Vector.getElem?_replicate] using hk
    decide
  faultIffFaulted := iff_of_false nofun nofun
  waitFetchable := nofun
  noRandomLeft := h

theorem loadProgram_inv (h : s.Inv) (bytes : List Byte) : (s.loadProgram bytes).Inv := by
  unfold State.loadProgram
  split
  · exact { h with }
  split
  · exact { h with }
  next hun hlen =>
    have hun : s.runState = .unloaded := not_not.1 hun
    have hlen : bytes.length ≤ 3584 := not_lt.1 hlen
    have hmem := h.blockInv.writeRange (base := programBase) (by decide) (bytes := bytes) (by rw [programBase]; omega)
    have hrun := hmem.setRunState (r := .running) (by simp [hun]) nofun nofun
    exact { hrun.inv h.noRandomLeft with }

/-- Every transaction of the host keeps the invariant (R9). -/
theorem transact_inv {t : State} (h : s.Inv) (tr : Transaction) (ht : transact tr s = .next t) : t.Inv := by
  cases tr with
  | step r => exact namedStep_inv h ht
  | reset => cases ht; exact resetBlock_inv h.noRandomLeft
  | loadProgram bytes => cases ht; exact loadProgram_inv h bytes
  | tick | setKey | snapshot | consumeChanged => cases ht; exact { h with }

end

theorem step_inv {s t : State} (h : s.Inv) (ht : step s = .next t) : t.Inv := by
  cases hp : s.pending with
  | nil =>
    rw [step_free hp] at ht
    exact cycle_inv h ht
  | cons tr rest =>
    rw [step_pending hp] at ht
    exact transact_inv (s := { s with pending := rest }) { h with } tr ht

end Sys2Proof.Machine
end

section
/-! PROOFS, the statements of 10_state.md. -/

namespace Sys2Proof.Proofs

open Sys2Proof.Machine

/-- Settles O15: a step is a Step or another transaction of the host, and `step_inv` takes each apart. -/
theorem everyStepKeepsTheInvariant : Obligations.EveryStepKeepsTheInvariant := by
  unfold Obligations.EveryStepKeepsTheInvariant
  intro s t h ht
  exact step_inv h ht

/-- Settles O18: registers are in the frame of the writes, and a fatal condition changes none. -/
theorem registersChangeOnlyAsNamed : Obligations.RegistersChangeOnlyAsNamed := by
  unfold Obligations.RegistersChangeOnlyAsNamed
  intro i s t h
  obtain ⟨regs, -⟩ | ⟨c, w, rfl⟩ := (exec_writes_of_eq h).frame_or_fatal
  · exact regs
  · exact fun r _ => s.reg_raiseFatal c w r

/-- Settles O20: an answer that is not FAULTED is no fatal end, and one that has become FAULTED is no end that continues
(`exec_ends`). -/
theorem partsChangeOnlyByTheirWriters : Obligations.PartsChangeOnlyByTheirWriters := by
  unfold Obligations.PartsChangeOnlyByTheirWriters
  intro i s t h
  refine ⟨fun hnot => ?_, fun hs hfault => ?_⟩
  · obtain hframe | ⟨c, w, rfl⟩ := (exec_writes_of_eq h).frame_or_fatal
    · exact hframe
    · exact absurd rfl hnot
  · have hends : ExecEnds i s (.next t) := h ▸ exec_ends i s
    cases hends with
    | continues hc => exact absurd (hc.faulted_before hfault) hs
    | fatal => exact ⟨_, _, s.raiseFatal_tookFatal _ _⟩

end Sys2Proof.Proofs
end

section
/-! PROOFS, 20_memory.md R72, R75, R77, R78, R81, R82, R89: what an instruction and a load leave of memory, and what a fetch makes of
it. -/

namespace Sys2Proof.Machine

/-! ### What an instruction leaves of memory (R72, R75, R81) -/

section
variable {i : Instr} {s t : State}

/-- A byte is kept if it is below the font's end, where no store is admitted, or outside the range of the instruction's own store. -/
theorem Writes.read_kept {a : Nat} (hu : Writes i s t) (ha : a < 80 ∨ a < s.i.toNat ∨ s.i.toNat + storeCount i ≤ a) :
    t.mem.read a = s.mem.read a := by
  induction hu with
  | start => rfl
  | memory _ hlo _ hn ih => exact (Memory.read_writeRange_outside _ _ (by omega)).trans ih
  | reg _ _ _ ih | index _ _ _ ih | stack _ _ _ _ ih | delay _ _ _ ih | sound _ _ _ ih | display _ _ _ _ ih | drawn _ _ ih =>
    exact ih

/-- The same of the whole instruction: the ends other than a completion write no memory. -/
theorem ExecWrites.read_kept {a : Nat} (hx : ExecWrites i s (.next t))
    (ha : a < 80 ∨ a < s.i.toNat ∨ s.i.toNat + storeCount i ≤ a) : t.mem.read a = s.mem.read a := by
  cases hx with
  | finish hu => exact hu.read_kept ha
  | reportDiag | enterKeyWait | fatal => rfl

end

/-! ### What a store at I leaves of memory and of the next fetch (R75, R77, R89) -/

/-- Big-endian (R77). -/
theorem State.fetchedWord_toNat (s : State) :
    s.fetchedWord.toNat = (s.mem.read s.pc.toNat).toNat * 256 + (s.mem.read (s.pc.toNat + 1)).toNat :=
  wordOfBytes_toNat _ _

theorem State.read_writeRange_eq_byteAfterStore (s : State) {bytes : List Byte} {stored : Nat → Byte}
    (hs : ∀ (k : Nat) (hk : k < bytes.length), bytes[k] = stored k) (a : Nat) :
    (s.mem.writeRange s.i.toNat bytes).read a = s.byteAfterStore bytes.length stored a := by
  rw [Memory.read_writeRange, State.byteAfterStore]
  refine ite_congr rfl (fun h => ?_) fun _ => rfl
  have hk : a - s.i.toNat < bytes.length := by omega
  rw [List.getD_eq_getElem _ _ hk, hs _ hk]

/-- A store that completes moves on to A + 2, and the word there has the bytes as the store left them. -/
theorem State.storeAtIndex_next_fetch (s : State) {bytes : List Byte} (w : Word) {stored : Nat → Byte} (hlo : 80 ≤ s.i.toNat)
    (hhi : s.i.toNat + bytes.length ≤ 0x1000) (hs : ∀ (k : Nat) (hk : k < bytes.length), bytes[k] = stored k) :
    (s.storeAtIndex bytes w).pc = s.pc + 2#16 ∧
      (s.storeAtIndex bytes w).fetchedWord.toNat =
        (s.byteAfterStore bytes.length stored (s.storeAtIndex bytes w).pc.toNat).toNat * 256 +
        (s.byteAfterStore bytes.length stored ((s.storeAtIndex bytes w).pc.toNat + 1)).toNat := by
  rw [s.storeAtIndex_ok bytes w ((checkWrite_eq_none _ _).2 (.inr ⟨hlo, hhi⟩)), fetchedWord_toNat,
    ← s.read_writeRange_eq_byteAfterStore hs, ← s.read_writeRange_eq_byteAfterStore hs]
  exact ⟨rfl, rfl⟩

/-- The three bytes of a BCD store, as numbers (43_index_memory.md R216). -/
theorem bcdDigits_toNat (b : Byte) :
    ((bcdDigits b).getD 0 0x00#8).toNat = b.toNat / 100 ∧ ((bcdDigits b).getD 1 0x00#8).toNat = b.toNat / 10 % 10 ∧
      ((bcdDigits b).getD 2 0x00#8).toNat = b.toNat % 10 := by
  simp only [bcdDigits, List.getD_cons_zero, List.getD_cons_succ, BitVec.toNat_ofNat]
  omega

/-! ### A Step whose cycle leaves the host's plans alone -/

/-- Where the cycle answers `t` whatever the host plans, and leaves those plans alone, a Step answers `t` with the Step taken off
the host's list. -/
theorem step_of_cycle {s t : State} (hs : s.NextIsStep)
    (h : ∀ (p : List Transaction) (o : Option Byte),
      cycle { s with pending := p, randomIn := o } = .next { t with pending := p, randomIn := o }) :
    step s = .next { t with pending := s.stepDone.pending, randomIn := s.stepDone.randomIn } := by
  obtain ⟨u, ⟨p, o, rfl⟩, hstep⟩ := step_of_nextIsStep hs
  exact hstep { t with pending := p, randomIn := o } (h p o) rfl rfl

/-- A fetch that is not admitted (R78): the condition is taken before any byte is read. -/
theorem step_outside {s : State} (hs : s.NextIsStep) (hr : s.runState = .running) (hf : s.fetchable = false) :
    step s = .next (s.stepDone.raiseFatal .pcOutOfRange none) := by
  have hcycle (p : List Transaction) (o : Option Byte) :
      cycle { s with pending := p, randomIn := o } =
        .next { s.raiseFatal .pcOutOfRange none with pending := p, randomIn := o } :=
    (cycle_running (s := { s with pending := p, randomIn := o }) hr).trans (runCycle_outside hf)
  rw [step_of_cycle hs hcycle]
  obtain ⟨p, o, hd⟩ := s.stepDone_block
  rw [hd]
  rfl

/-! ### LoadProgram (R82) -/

section
variable {s : State} {bytes : List Byte}

theorem State.loadProgram_alreadyLoaded (hr : s.runState ≠ .unloaded) :
    s.loadProgram bytes = { s with response := .loadFailed .alreadyLoaded } := if_pos hr

theorem State.loadProgram_tooLarge (hr : s.runState = .unloaded) (hn : programCapacity < bytes.length) :
    s.loadProgram bytes = { s with response := .loadFailed .programTooLarge } := by
  rw [State.loadProgram, if_neg (not_not.2 hr), if_pos hn]

theorem State.loadProgram_ok (hr : s.runState = .unloaded) (hn : bytes.length ≤ programCapacity) :
    s.loadProgram bytes =
      { s with mem := s.mem.writeRange programBase bytes, runState := .running, response := .loadOk } := by
  rw [State.loadProgram, if_neg (not_not.2 hr), if_neg (Nat.not_lt.2 hn)]

theorem step_loadProgram {t : State} {rest : List Transaction} (hp : s.pending = .loadProgram bytes :: rest)
    (ht : State.loadProgram { s with pending := rest } bytes = t) : step s = .next t := by
  rw [step_pending hp, transact, ht]

end

end Sys2Proof.Machine
end

section
/-! PROOFS, the statements of 20_memory.md. -/

namespace Sys2Proof.Proofs

open Sys2Proof.Machine

/-- Settles O7: the number of the two bytes' word. -/
theorem fetchedWordIsBigEndian : Obligations.FetchedWordIsBigEndian := by
  unfold Obligations.FetchedWordIsBigEndian
  exact State.fetchedWord_toNat

/-- Settles O8: such a pc is not admitted by `fetchable_iff`, so the Step is `step_outside`. -/
theorem fetchOutsideProgramAreaIsFatal : Obligations.FetchOutsideProgramAreaIsFatal := by
  unfold Obligations.FetchOutsideProgramAreaIsFatal
  intro s hs hr hpc
  have hf : s.fetchable = false := Bool.eq_false_iff.2 fun h => by
    have := s.fetchable_iff.1 h
    omega
  exact ⟨_, step_outside hs hr hf, s.stepDone.raiseFatal_tookFatal _ _⟩

/-- Settles O13: both instructions are stores at I, of the three digits and of V0 to VX. -/
theorem nextFetchSeesAStore : Obligations.NextFetchSeesAStore := by
  unfold Obligations.NextFetchSeesAStore
  intro x s hlo
  refine ⟨fun hhi => ?_, fun hhi => ?_⟩
  · obtain ⟨hpc, hword⟩ := s.storeAtIndex_next_fetch (bytes := bcdDigits (s.reg x)) (encode (.ldB x)) hlo
      (by rw [bcdDigits_length]; omega) fun k hk => (List.getD_eq_getElem _ 0x00#8 hk).symm
    obtain ⟨hundreds, tens, ones⟩ := bcdDigits_toNat (s.reg x)
    exact ⟨_, rfl, hpc, _, hundreds, tens, ones, hword⟩
  · obtain ⟨hpc, hword⟩ := s.storeAtIndex_next_fetch (encode (.ldMemVx x)) hlo
      (by rw [s.regsUpTo_length]; omega) (s.regsUpTo_getElem x)
    rw [s.regsUpTo_length] at hword
    exact ⟨_, rfl, hpc, hword⟩

/-- Settles O19: memory is written by the instruction's own store alone (`ExecWrites.read_kept`). -/
theorem memoryChangesOnlyInStoredRange : Obligations.MemoryChangesOnlyInStoredRange := by
  unfold Obligations.MemoryChangesOnlyInStoredRange
  intro i s t h a ha
  exact (exec_writes_of_eq h).read_kept (.inr ha)

/-- Settles O21: no store is admitted below the end of the font table (`ExecWrites.read_kept`). -/
theorem noInstructionWritesTheFont : Obligations.NoInstructionWritesTheFont := by
  unfold Obligations.NoInstructionWritesTheFont
  intro i s t h a ha
  exact (exec_writes_of_eq h).read_kept (.inl ha)

/-- Settles O25: one equation of LoadProgram per outcome, and, where it loads, the reads of a range written at PROGRAM_BASE. -/
theorem loadProgramCopiesOrRefuses : Obligations.LoadProgramCopiesOrRefuses := by
  unfold Obligations.LoadProgramCopiesOrRefuses
  intro s bytes rest hp
  refine ⟨fun hr => ?_, fun hr hn => ?_, fun hr hn => ?_⟩
  · exact step_loadProgram hp (State.loadProgram_alreadyLoaded hr)
  · exact step_loadProgram hp (State.loadProgram_tooLarge hr hn)
  · refine ⟨_, step_loadProgram hp (State.loadProgram_ok hr hn), rfl, rfl, fun k b hb => ?_, fun a ha => ?_, rfl⟩
    · obtain ⟨hk, rfl⟩ := List.getElem?_eq_some_iff.1 hb
      exact Memory.read_writeRange_at bytes s.mem programBase hk
    · exact Memory.read_writeRange_outside bytes s.mem ha

end Sys2Proof.Proofs
end

section
/-! PROOFS, 30_encoding.md R101, R104, R106 to R108: encoder and decoder are each other's inverse, the UNKNOWN words, and the opcode
map as the decoder's own map. -/

namespace Sys2Proof.Laws

/-! ### Decoding an encoded instruction (R101, R106) -/

/-- SYS is what is left of family 0 by the words of CLS and RET (R107). -/
theorem decode_encode_sys {nnn : Addr} (h : sysAddrOk nnn = true) : decode (encode (.sys nnn)) = .ok (.sys nnn) := by
  have hne {c : Addr} (hc : nnn ≠ c) : formatA 0x0#4 nnn ≠ formatA 0x0#4 c := fun he => hc (by
    simpa using congrArg fieldNNN he)
  obtain ⟨hcls, hret⟩ : nnn ≠ 0x0E0#12 ∧ nnn ≠ 0x0EE#12 := by simpa [sysAddrOk] using h
  have hcls' : formatA 0x0#4 nnn ≠ 0x00E0#16 := hne hcls
  have hret' : formatA 0x0#4 nnn ≠ 0x00EE#16 := hne hret
  simp [encode, decode, decode0, hcls', hret']

/-- By the family, and in families 8, E and F by the sub-selector. -/
theorem decode_encode {i : Instr} (h : i.wf = true) : decode (encode i) = .ok i := by
  cases i with
  | sys => exact decode_encode_sys h
  | cls | ret => rfl
  | jp | call | ldI | jpV0 | seImm | sneImm | ldImm | addImm | rnd | seReg | sneReg | drw => simp [encode, decode]
  | ldReg | orReg | andReg | xorReg | addReg | sub | shr | subn | shl => simp [encode, decode, decode8]
  | skp | sknp => simp [encode, decode, decodeE]
  | ldVxDt | ldVxK | ldDtVx | ldStVx | addI | ldF | ldB | ldMemVx | ldVxMem => simp [encode, decode, decodeF]

/-! ### A decoded instruction is well-formed (R107) -/

theorem eq_sys_of_not_wf {i : Instr} (h : ¬i.wf = true) : i = .sys 0x0E0#12 ∨ i = .sys 0x0EE#12 := by
  cases i with
  | sys nnn =>
    simpa [Instr.wf, sysAddrOk, imp_iff_not_or] using h
  | _ => exact absurd rfl h

/-- The two ill-formed terms have the words of CLS and RET, which decode to CLS and RET. -/
theorem wf_of_decode {w : Word} {i : Instr} (h : decode w = .ok i) : i.wf = true := by
  by_contra hwf
  have hw := encode_of_decode h
  obtain rfl | rfl := eq_sys_of_not_wf hwf <;> subst hw <;> exact absurd h (by decide)

/-! ### The words that do not decode (R108) -/

/-- A family, and a low nibble `n` and a low byte `nn` that are no sub-selector of it. -/
abbrev Unlisted (f n nn : Nat) : Prop :=
  (f = 5 ∧ n ≠ 0) ∨ (f = 8 ∧ n ∈ [0x8, 0x9, 0xA, 0xB, 0xC, 0xD, 0xF]) ∨ (f = 9 ∧ n ≠ 0) ∨ (f = 0xE ∧ nn ∉ [0x9E, 0xA1]) ∨
    (f = 0xF ∧ nn ∉ [0x07, 0x0A, 0x15, 0x18, 0x1E, 0x29, 0x33, 0x55, 0x65])

theorem decode0_ne_error (w : Word) (u : Unknown) : decode0 w ≠ .error u := by
  unfold decode0
  split_ifs <;> exact nofun

theorem decode8_eq_error_iff (x y n : Nibble) :
    (∃ u, decode8 x y n = .error u) ↔ n.toNat ∈ [0x8, 0x9, 0xA, 0xB, 0xC, 0xD, 0xF] := by
  unfold decode8
  split
  case h_10 =>
    have hlt := n.isLt
    simp only [imp_false] at *
    simp only [Except.error.injEq, exists_eq', List.mem_cons, List.not_mem_nil, true_iff]
    omega
  all_goals simp [*]

theorem decodeE_eq_error_iff (x : Nibble) (nn : Byte) : (∃ u, decodeE x nn = .error u) ↔ nn.toNat ∉ [0x9E, 0xA1] := by
  unfold decodeE
  split_ifs <;> simp_all [BitVec.toNat_eq]

theorem decodeF_eq_error_iff (x : Nibble) (nn : Byte) :
    (∃ u, decodeF x nn = .error u) ↔ nn.toNat ∉ [0x07, 0x0A, 0x15, 0x18, 0x1E, 0x29, 0x33, 0x55, 0x65] := by
  unfold decodeF
  split_ifs <;> simp_all [BitVec.toNat_eq]

/-- Only five families have UNKNOWN words. -/
theorem decode_eq_error_iff (w : Word) :
    (∃ u, decode w = .error u) ↔ Unlisted (fieldF w).toNat (fieldN w).toNat (fieldNN w).toNat := by
  unfold decode
  split
  case h_1 hf => simp [Unlisted, hf, decode0_ne_error]
  case h_6 hf | h_10 hf => split_ifs <;> simp_all [Unlisted, BitVec.toNat_eq]
  case h_9 hf => simpa [Unlisted, hf] using decode8_eq_error_iff _ _ _
  case h_15 hf => simpa [Unlisted, hf] using decodeE_eq_error_iff _ _
  case h_16 =>
    have hlast : (fieldF w).toNat = 15 := by
      have hlt := (fieldF w).isLt
      simp only [imp_false] at *
      omega
    simpa [Unlisted, hlast] using decodeF_eq_error_iff _ _
  all_goals simp [Unlisted, *]

/-! ### Rows of the opcode map and the words that fit them (R106, R107) -/

section
variable {r q : OpcodeRow} {w : Word}

theorem fits_iff : r.fits w = true ↔ w &&& r.mask = r.value ∧ w ∉ r.excludes := by
  simp [OpcodeRow.fits]

/-- A word that fits has the row's bits in every field the row fixes. -/
theorem extractLsb'_eq_of_fits {start len : Nat} (h : r.fits w = true)
    (hm : r.mask.extractLsb' start len = BitVec.allOnes len) : w.extractLsb' start len = r.value.extractLsb' start len := by
  rw [← (fits_iff.1 h).1, BitVec.extractLsb'_and, hm, BitVec.and_allOnes]

/-- Two rows that no word fits both: they differ in a bit that both fix, or the second is one word, which the first leaves out. -/
abbrev Apart (r q : OpcodeRow) : Prop :=
  r.value &&& q.mask ≠ q.value &&& r.mask ∨ (q.mask = 0xFFFF#16 ∧ q.value ∈ r.excludes)

theorem Apart.not_fits_both (h : Apart r q) (hr : r.fits w = true) : ¬q.fits w = true := by
  intro hq
  obtain ⟨hrw, hout⟩ := fits_iff.1 hr
  obtain ⟨hqw, -⟩ := fits_iff.1 hq
  obtain hbit | ⟨hmask, hmem⟩ := h
  · exact hbit (by rw [← hrw, ← hqw, BitVec.and_assoc, BitVec.and_assoc, BitVec.and_comm r.mask])
  · rw [← hqw, hmask, and_FFFF] at hmem
    exact hout hmem

theorem opcodeRows_apart : opcodeRows.Pairwise Apart := by decide

theorem filter_fits_eq_singleton (hr : r ∈ opcodeRows) (h : r.fits w = true) : opcodeRows.filter (·.fits w) = [r] := by
  have hmem : r ∈ opcodeRows.filter (·.fits w) := List.mem_filter.2 ⟨hr, h⟩
  have hpair : (opcodeRows.filter (·.fits w)).Pairwise fun _ _ => False :=
    (opcodeRows_apart.filter _).imp_of_mem fun ha hb hab =>
      hab.not_fits_both (List.mem_filter.1 ha).2 (List.mem_filter.1 hb).2
  cases hl : opcodeRows.filter (·.fits w) with
  | nil => simp [hl] at hmem
  | cons a l =>
    rw [hl] at hmem hpair
    obtain rfl : l = [] := List.eq_nil_iff_forall_not_mem.2 (List.pairwise_cons.1 hpair).1
    rw [List.mem_singleton.1 hmem]

/-- The word of a well-formed instruction fits the instruction's own row. -/
theorem fitsRow (i : Instr) : FitsRow.Statement i := by
  cases i
  exacts [FitsRow.sys _, FitsRow.cls, FitsRow.ret, FitsRow.jp _, FitsRow.call _, FitsRow.seImm _ _, FitsRow.sneImm _ _,
    FitsRow.seReg _ _, FitsRow.ldImm _ _, FitsRow.addImm _ _, FitsRow.ldReg _ _, FitsRow.orReg _ _, FitsRow.andReg _ _,
    FitsRow.xorReg _ _, FitsRow.addReg _ _, FitsRow.sub _ _, FitsRow.shr _ _, FitsRow.subn _ _, FitsRow.shl _ _,
    FitsRow.sneReg _ _, FitsRow.ldI _, FitsRow.jpV0 _, FitsRow.rnd _ _, FitsRow.drw _ _ _, FitsRow.skp _, FitsRow.sknp _,
    FitsRow.ldVxDt _, FitsRow.ldVxK _, FitsRow.ldDtVx _, FitsRow.ldStVx _, FitsRow.addI _, FitsRow.ldF _, FitsRow.ldB _,
    FitsRow.ldMemVx _, FitsRow.ldVxMem _]

/-! ### A word that fits a row is not UNKNOWN (R107) -/

/-- Every row fixes the family, and all of the sub-selector where the family has one. -/
theorem opcodeRows_fix_selector : ∀ r ∈ opcodeRows, fieldF r.mask = 0xF#4 ∧
    ((fieldF r.value).toNat ∈ [5, 8, 9] → fieldN r.mask = 0xF#4) ∧
    ((fieldF r.value).toNat ∈ [0xE, 0xF] → fieldNN r.mask = 0xFF#8) := by decide

theorem opcodeRows_listed :
    ∀ r ∈ opcodeRows, ¬Unlisted (fieldF r.value).toNat (fieldN r.value).toNat (fieldNN r.value).toNat := by decide

/-- The word has the family and the sub-selector of the row. -/
theorem decode_ne_error_of_fits (hr : r ∈ opcodeRows) (h : r.fits w = true) (u : Unknown) : decode w ≠ .error u := by
  intro hu
  obtain ⟨hmF, hmN, hmNN⟩ := opcodeRows_fix_selector r hr
  have hF : fieldF w = fieldF r.value := extractLsb'_eq_of_fits h hmF
  have hN (hf : (fieldF r.value).toNat ∈ [5, 8, 9]) : fieldN w = fieldN r.value := extractLsb'_eq_of_fits h (hmN hf)
  have hNN (hf : (fieldF r.value).toNat ∈ [0xE, 0xF]) : fieldNN w = fieldNN r.value := extractLsb'_eq_of_fits h (hmNN hf)
  refine opcodeRows_listed r hr ?_
  obtain ⟨hf, hn⟩ | ⟨hf, hn⟩ | ⟨hf, hn⟩ | ⟨hf, hnn⟩ | ⟨hf, hnn⟩ := hF ▸ (decode_eq_error_iff w).1 ⟨u, hu⟩
  · exact .inl ⟨hf, hN (by simp [hf]) ▸ hn⟩
  · exact .inr (.inl ⟨hf, hN (by simp [hf]) ▸ hn⟩)
  · exact .inr (.inr (.inl ⟨hf, hN (by simp [hf]) ▸ hn⟩))
  · exact .inr (.inr (.inr (.inl ⟨hf, hNN (by simp [hf]) ▸ hnn⟩)))
  · exact .inr (.inr (.inr (.inr ⟨hf, hNN (by simp [hf]) ▸ hnn⟩)))

end

end Sys2Proof.Laws

namespace Sys2Proof.Machine

/-- Every instruction answers a next state. -/
theorem exec_eq_next (i : Instr) (s : State) : ∃ t, exec i s = .next t := by
  have h := exec_ends i s
  generalize exec i s = o at h ⊢
  cases h with
  | continues | fatal => exact ⟨_, rfl⟩

end Sys2Proof.Machine
end

section
/-! PROOFS, the statements of 30_encoding.md. -/

namespace Sys2Proof.Proofs

open Sys2Proof.Machine

/-- Settles O1: `decode_encode`, and the bytes of a word decode as the word does. -/
theorem decodeOfEncodeIsTheInstruction : Obligations.DecodeOfEncodeIsTheInstruction := by
  unfold Obligations.DecodeOfEncodeIsTheInstruction
  intro i rest hwf
  have h := Laws.decode_encode hwf
  exact ⟨h, by rw [encodeBytes, decodeBytes_bytesOfWord, h]⟩

/-- Settles O2: by `wf_of_decode` and `encode_of_decode`. -/
theorem encodeOfDecodeIsTheWord : Obligations.EncodeOfDecodeIsTheWord := by
  unfold Obligations.EncodeOfDecodeIsTheWord
  exact fun w i h => ⟨Laws.wf_of_decode h, Laws.encode_of_decode h⟩

/-- Settles O3: the word fits the row of what it decodes to (`fitsRow`) and, the rows being apart, no other; a word that fits a row
decodes (`decode_ne_error_of_fits`). -/
theorem everyWordFitsOneRowOrIsUnknown : Obligations.EveryWordFitsOneRowOrIsUnknown := by
  unfold Obligations.EveryWordFitsOneRowOrIsUnknown
  refine fun w => ⟨fun i h => ?_, fun u h => ?_⟩
  · obtain ⟨r, hr, hname, hfits⟩ := Laws.fitsRow i (Laws.wf_of_decode h)
    rw [Laws.encode_of_decode h] at hfits
    rw [Laws.filter_fits_eq_singleton hr hfits, List.map_singleton, hname]
  · exact List.filter_eq_nil_iff.2 fun r hr hfits => Laws.decode_ne_error_of_fits hr hfits u h

/-- Settles O4: `decode_eq_error_iff`, the fields being read off the word's number. -/
theorem unknownWordsAreThoseListed : Obligations.UnknownWordsAreThoseListed := by
  unfold Obligations.UnknownWordsAreThoseListed
  intro w
  rw [Laws.decode_eq_error_iff, fieldF_toNat, fieldN_toNat, fieldNN_toNat]

/-- Settles O5: the six words are those of well-formed instructions (`decode_encode`). -/
theorem exampleWordsDecode : Obligations.ExampleWordsDecode := by
  unfold Obligations.ExampleWordsDecode
  exact ⟨Laws.decode_encode (i := .sys 0x123#12) rfl, Laws.decode_encode (i := .call 0x300#12) rfl,
    Laws.decode_encode (i := .seImm 0x3#4 0x42#8) rfl, Laws.decode_encode (i := .subn 0x1#4 0x2#4) rfl,
    Laws.decode_encode (i := .drw 0x0#4 0x1#4 0x5#4) rfl, Laws.decode_encode (i := .ldVxMem 0x2#4) rfl⟩

/-- Settles O6: the Step is the cycle, which runs the instruction fetched; with a named byte, that byte is dropped from the next
state, which every instruction answers (`exec_eq_next`). -/
theorem stepRunsTheDecodedInstruction : Obligations.StepRunsTheDecodedInstruction := by
  unfold Obligations.StepRunsTheDecodedInstruction
  refine fun s i h => ⟨fun hp => (step_free hp).trans h.cycle_eq, fun r rest hp => ?_⟩
  obtain ⟨t, ht⟩ := exec_eq_next i { s with pending := rest, randomIn := some r }
  exact ⟨t, ht, by rw [h.step_named_eq hp, ht, dropRandom_next]⟩

end Sys2Proof.Proofs
end

section
/-! PROOFS, 40_control_flow.md R131, R133, 70_reset_and_hazards.md R353: the stack instructions by what the stack holds, and the
conventional halt through every transaction of the host. -/

namespace Sys2Proof.Machine

/-- The word and the decoding of an encoding that some word decodes to (30_encoding.md R106). -/
theorem encodedAs_of_wf {i : Instr} {n : Nat} (hwf : i.wf = true) (hn : (encode i).toNat = n) : i.EncodedAs n :=
  ⟨hn, Laws.decode_encode hwf⟩

/-! ### CALL and RET by the depth of the stack (10_state.md R40, R41) -/

section
variable {s : State}

theorem exec_call_ok (nnn : Addr) (h : s.sp.val < 16) :
    exec (.call nnn) s =
      .next (State.finish { s with stack := s.stack.set s.sp.val (s.pc + 2#16) h, sp := ⟨s.sp.val + 1, by omega⟩ }
        (addrWord nnn)) := by
  rw [exec, execCall, s.push_ok _ h]

theorem exec_call_overflow (nnn : Addr) (h : s.sp.val = 16) :
    exec (.call nnn) s = .next (s.raiseFatal .stackOverflow (some (encode (.call nnn)))) := by
  rw [exec, execCall, s.push_overflow _ h]

theorem exec_ret_ok (h : s.sp.val ≠ 0) :
    exec .ret s =
      .next (State.finish { s with sp := ⟨s.sp.val - 1, by omega⟩ } (s.stack[s.sp.val - 1]'(by omega))) := by
  rw [exec, execRet, s.pop_ok h]

theorem exec_ret_underflow (h : s.sp.val = 0) :
    exec .ret s = .next (s.raiseFatal .stackUnderflow (some 0x00EE#16)) := by
  rw [exec, execRet, s.pop_underflow h, encode]

/-- A completed instruction that wrote the stack alone. -/
theorem stack_finish_frame (s : State) (entries : Vector Word 16) (sp : Fin 17) (a : Word) :
    Frame [.stack] [] s (State.finish { s with stack := entries, sp := sp } a) := by
  obtain ⟨regs, keys, index, memory, -, rest⟩ := frame_refl [.stack] [] s
  exact ⟨regs, keys, index, memory, fun hn => absurd (List.mem_singleton_self _) hn, rest⟩

/-! ### The conventional halt (R132, R353) -/

/-- The halt is read from run_state, the pc and memory alone. -/
theorem State.AtSelfJump.congr {t : State} (h : s.AtSelfJump) (hr : t.runState = s.runState) (hpc : t.pc = s.pc)
    (hm : t.mem = s.mem) : t.AtSelfJump := by
  rw [State.AtSelfJump, hr, hpc, hm]
  exact h

/-- The cycle at the halt runs the jump, whose target is the pc. -/
theorem State.AtSelfJump.cycle_eq (h : s.AtSelfJump) (hlo : 0x200 ≤ s.pc.toNat) : cycle s = .next (s.finish s.pc) := by
  obtain ⟨hr, hhi, nnn, hd, hpc⟩ := h
  have hf : s.Fetches (.jp nnn) := ⟨hr, hlo, hhi, hd⟩
  rw [hf.cycle_eq, exec, execJp, ← hpc]

theorem State.AtSelfJump.step_eq (h : s.AtSelfJump) (hlo : 0x200 ≤ s.pc.toNat) (hs : s.NextIsStep) :
    step s = .next { s.stepDone with response := .step .ok } := by
  have hcycle (p : List Transaction) (o : Option Byte) :
      cycle { s with pending := p, randomIn := o } = .next { s.finish s.pc with pending := p, randomIn := o } :=
    (h.congr (t := { s with pending := p, randomIn := o }) rfl rfl rfl).cycle_eq hlo
  rw [step_of_cycle hs hcycle]
  obtain ⟨p, o, hd⟩ := s.stepDone_block
  rw [hd]
  rfl

/-- No transaction but Reset writes run_state, the pc or memory at the halt: LoadProgram is refused, as the block is RUNNING. -/
theorem State.AtSelfJump.transact_kept (h : s.AtSelfJump) (hlo : 0x200 ≤ s.pc.toNat) {tr : Transaction} (htr : tr ≠ .reset) :
    ∃ t, transact tr s = .next t ∧ t.AtSelfJump ∧ t.pc = s.pc := by
  cases tr with
  | reset => exact absurd rfl htr
  | loadProgram bytes =>
    have hloaded : s.runState ≠ .unloaded := by rw [h.left]; nofun
    rw [transact, State.loadProgram_alreadyLoaded hloaded]
    exact ⟨_, rfl, h.congr rfl rfl rfl, rfl⟩
  | step r =>
    have hnamed : State.AtSelfJump { s with randomIn := some r } := h.congr rfl rfl rfl
    rw [transact, hnamed.cycle_eq hlo]
    exact ⟨_, rfl, h.congr rfl rfl rfl, rfl⟩
  | tick | setKey | snapshot | consumeChanged => exact ⟨_, rfl, h.congr rfl rfl rfl, rfl⟩

/-- The same of a step of the machine, which is such a transaction or a Step that nothing names. -/
theorem State.AtSelfJump.step_kept (h : s.AtSelfJump) (hlo : 0x200 ≤ s.pc.toNat) (hreset : s.pending.head? ≠ some .reset) :
    ∃ t, step s = .next t ∧ t.AtSelfJump ∧ t.pc = s.pc := by
  cases hp : s.pending with
  | nil => exact ⟨_, (step_free hp).trans (h.cycle_eq hlo), h.congr rfl rfl rfl, rfl⟩
  | cons tr rest =>
    have htr : tr ≠ .reset := fun he => hreset (by rw [hp, he, List.head?_cons])
    have hrest : State.AtSelfJump { s with pending := rest } := h.congr rfl rfl rfl
    rw [step_pending hp]
    exact hrest.transact_kept hlo htr

end

end Sys2Proof.Machine
end

section
/-! PROOFS, the statements of 40_control_flow.md. -/

namespace Sys2Proof.Proofs

open Sys2Proof.Machine

/-- Settles O28: such a SYS is well-formed, and it is the report of a diagnostic. -/
theorem sysReportsAndSkips : Obligations.SysReportsAndSkips := by
  unfold Obligations.SysReportsAndSkips
  intro nnn s hcls hret
  have hwf : (Instr.sys nnn).wf = true := by simp [Instr.wf, sysAddrOk, hcls, hret]
  exact ⟨encodedAs_of_wf hwf (by simp [encode, formatA_toNat]), rfl⟩

/-- Settles O29: both are completed at their target and write nothing else; neither target wraps. -/
theorem jumpsGoToTheirTargets : Obligations.JumpsGoToTheirTargets := by
  unfold Obligations.JumpsGoToTheirTargets
  intro nnn s
  refine ⟨⟨encodedAs_of_wf rfl ?_, ?_⟩, encodedAs_of_wf rfl ?_, ?_⟩
  · exact formatA_toNat 0x1#4 nnn
  · exact ⟨_, rfl, addrWord_toNat nnn, rfl, frame_refl _ _ s⟩
  · exact formatA_toNat 0xB#4 nnn
  · exact ⟨_, rfl, offsetTarget_toNat nnn _, rfl, frame_refl _ _ s⟩

/-- Settles O30: by whether the stack has room. -/
theorem callPushesOrOverflows : Obligations.CallPushesOrOverflows := by
  unfold Obligations.CallPushesOrOverflows
  intro nnn s
  refine ⟨encodedAs_of_wf rfl (formatA_toNat 0x2#4 nnn), fun h => ?_, fun h => ?_⟩
  · refine ⟨_, exec_call_ok nnn h, addrWord_toNat nnn, rfl, rfl, ?_, fun k hk => ?_, stack_finish_frame s _ _ _⟩
    · exact Vector.getElem?_set_self h
    · exact Vector.getElem?_set_ne h hk.symm
  · exact ⟨_, exec_call_overflow nnn h, s.raiseFatal_tookFatal _ _⟩

/-- Settles O31: by whether the stack holds an entry. -/
theorem retPopsOrUnderflows : Obligations.RetPopsOrUnderflows := by
  unfold Obligations.RetPopsOrUnderflows
  refine fun s => ⟨encodedAs_of_wf rfl rfl, fun h => ?_, fun h => ?_⟩
  · exact ⟨_, exec_ret_ok h, Vector.getElem?_eq_getElem (by omega), rfl, rfl, rfl, stack_finish_frame s _ _ _⟩
  · exact ⟨_, exec_ret_underflow h, s.raiseFatal_tookFatal _ _⟩

/-- Settles O32: the entry that the RET pops is the one that the CALL pushed. -/
theorem callThenRetComesBack : Obligations.CallThenRetComesBack := by
  unfold Obligations.CallThenRetComesBack
  intro nnn s h
  obtain ⟨-, hcall, -⟩ := callPushesOrOverflows nnn s
  obtain ⟨t, ht, -, -, htsp, hpushed, -⟩ := hcall h
  refine ⟨t, ht, fun u hstack hsp => ?_⟩
  have husp : u.sp.val = s.sp.val + 1 := hsp ▸ htsp
  obtain ⟨-, hret, -⟩ := retPopsOrUnderflows u
  obtain ⟨v, hv, hpopped, -, hvsp, -⟩ := hret (by omega)
  rw [hstack, husp, Nat.add_sub_cancel, hpushed] at hpopped
  exact ⟨v, hv, (Option.some.inj hpopped).symm, Fin.ext (by omega)⟩

/-- Settles O33: a Step runs the jump to its own pc, and the host's other transactions but Reset keep what the halt is read from. -/
theorem selfJumpStays : Obligations.SelfJumpStays := by
  unfold Obligations.SelfJumpStays
  exact fun s h hlo => ⟨h.step_eq hlo, h.step_kept hlo⟩

end Sys2Proof.Proofs
end

section
/-! PROOFS, 41_skips.md R150, R155 to R157: a skip by its condition, and the key skips by what the register holds. -/

namespace Sys2Proof.Machine

section
variable {s : State}

/-! ### The general skip rule (R150) -/

theorem State.skipIf_completed {c : Bool} {p : Prop} [Decidable p] (h : c = true ↔ p) :
    Completed (if p then s.pc + 4#16 else s.pc + 2#16) (s.skipIf c) := by
  simp only [skipIf_eq, h]
  exact s.finish_completed _

/-- An instruction that skips when `p` holds. -/
theorem skips_when {o : Host.Outcome State Fault Refusal} {c : Bool} {p : Prop} [Decidable p]
    (ho : o = .next (s.skipIf c)) (h : c = true ↔ p) :
    ∃ t, o = .next t ∧ Frame [] [] s t ∧ Completed (if p then s.pc + 4#16 else s.pc + 2#16) t :=
  ⟨_, ho, frame_refl _ _ s, State.skipIf_completed h⟩

/-- An instruction that skips unless `p` holds. -/
theorem skips_unless {o : Host.Outcome State Fault Refusal} {c : Bool} {p : Prop} [Decidable p]
    (ho : o = .next (s.skipIf c)) (h : c = true ↔ ¬p) :
    ∃ t, o = .next t ∧ Frame [] [] s t ∧ Completed (if p then s.pc + 2#16 else s.pc + 4#16) t := by
  rw [← ite_not]
  exact skips_when ho h

/-! ### The key skips by the index in V[X] (R157) -/

theorem keyPressed_digit {b : Byte} (h : b.toNat ≤ 0x0F) : s.keyPressed (BitVec.ofNat 4 b.toNat) = s.keys.getLsbD b.toNat := by
  rw [State.keyPressed, BitVec.toNat_ofNat, Nat.mod_eq_of_lt (by omega)]

variable {x : Nibble}

theorem exec_skp_ok (h : (s.reg x).toNat ≤ 0x0F) :
    exec (.skp x) s = .next (s.skipIf (s.keys.getLsbD (s.reg x).toNat)) := by
  rw [exec, execSkp, digitIndex_ok _ h, ← keyPressed_digit h]

theorem exec_sknp_ok (h : (s.reg x).toNat ≤ 0x0F) :
    exec (.sknp x) s = .next (s.skipIf (!s.keys.getLsbD (s.reg x).toNat)) := by
  rw [exec, execSknp, digitIndex_ok _ h, ← keyPressed_digit h]

theorem exec_skp_outOfRange (h : 0x0F < (s.reg x).toNat) :
    exec (.skp x) s = .next (s.raiseFatal .indexOutOfRange (some (encode (.skp x)))) := by
  rw [exec, execSkp, digitIndex_error _ h]

theorem exec_sknp_outOfRange (h : 0x0F < (s.reg x).toNat) :
    exec (.sknp x) s = .next (s.raiseFatal .indexOutOfRange (some (encode (.sknp x)))) := by
  rw [exec, execSknp, digitIndex_error _ h]

end

end Sys2Proof.Machine
end

section
/-! PROOFS, the statements of 41_skips.md. -/

namespace Sys2Proof.Proofs

open Sys2Proof.Machine

/-- Settles O34: each is the skip of its own condition (`skips_when`, `skips_unless`). -/
theorem comparisonsSkipOneWord : Obligations.ComparisonsSkipOneWord := by
  unfold Obligations.ComparisonsSkipOneWord
  intro x y nn s
  refine ⟨⟨encodedAs_of_wf rfl ?_, skips_when rfl beq_iff_eq⟩, ⟨encodedAs_of_wf rfl ?_, skips_unless rfl bne_iff_ne⟩,
    ⟨encodedAs_of_wf rfl ?_, skips_when rfl beq_iff_eq⟩, encodedAs_of_wf rfl ?_, skips_unless rfl bne_iff_ne⟩
  · exact formatXNN_toNat 0x3#4 x nn
  · exact formatXNN_toNat 0x4#4 x nn
  · exact formatXYN_toNat 0x5#4 x y 0x0#4
  · exact formatXYN_toNat 0x9#4 x y 0x0#4

/-- Settles O35: by whether V[X] is the index of a key. -/
theorem keySkipsReadTheLatch : Obligations.KeySkipsReadTheLatch := by
  unfold Obligations.KeySkipsReadTheLatch
  intro x s
  refine ⟨encodedAs_of_wf rfl ?_, encodedAs_of_wf rfl ?_, fun h => ?_, fun h => ?_⟩
  · exact (formatXNN_toNat 0xE#4 x 0x9E#8).trans (Nat.add_right_comm _ _ _)
  · exact (formatXNN_toNat 0xE#4 x 0xA1#8).trans (Nat.add_right_comm _ _ _)
  · exact ⟨skips_when (exec_skp_ok h) Iff.rfl, skips_unless (exec_sknp_ok h) (by simp)⟩
  · exact ⟨⟨_, exec_skp_outOfRange h, s.raiseFatal_tookFatal _ _⟩, ⟨_, exec_sknp_outOfRange h, s.raiseFatal_tookFatal _ _⟩⟩

end Sys2Proof.Proofs
end

section
/-! PROOFS, 42_alu.md R170 to R182: the results and flags as numbers, what is left by a write of a destination, with or without VF,
and the random byte. -/

namespace Sys2Proof.Machine

/-! ### Results and flags as numbers (R170) -/

theorem sumByte_toNat (a b : Byte) : (sumByte a b).toNat = (a.toNat + b.toNat) % 256 :=
  BitVec.toNat_ofNat _ _

theorem differenceByte_toNat (a b : Byte) : (differenceByte a b).toNat = (a.toNat + 256 - b.toNat) % 256 := by
  rw [differenceByte, BitVec.toNat_ofInt]
  omega

/-- The carry and the not-borrow are decisions of a comparison (R177, R178, R180). -/
theorem flagByte_decide_toNat (p : Prop) [Decidable p] : (flagByte (decide p)).toNat = if p then 1 else 0 := by
  by_cases h : p <;> simp [flagByte, h]

theorem shiftedRight_toNat (a : Byte) : (shiftedRight a).toNat = a.toNat / 2 := by
  rw [shiftedRight, BitVec.toNat_ushiftRight, Nat.shiftRight_eq_div_pow, pow_one]

theorem shiftedLeft_toNat (a : Byte) : (shiftedLeft a).toNat = a.toNat * 2 % 256 := by
  rw [shiftedLeft, BitVec.toNat_shiftLeft, Nat.shiftLeft_eq, pow_one]

theorem bitOutRight_toNat (a : Byte) : (bitOutRight a).toNat = a.toNat % 2 := by
  rw [bitOutRight, BitVec.toNat_and]
  exact Nat.and_one_is_mod _

/-- Above bit 7 a byte has no other bit, so the mask of R181 drops none. -/
theorem bitOutLeft_toNat (a : Byte) : (bitOutLeft a).toNat = a.toNat / 128 := by
  have hmask : (bitOutLeft a).toNat = a.toNat / 128 % 2 := by
    rw [bitOutLeft, BitVec.toNat_and, BitVec.toNat_ushiftRight, Nat.shiftRight_eq_div_pow]
    exact Nat.and_one_is_mod _
  have := a.isLt
  omega

/-! ### Encodings (30_encoding.md R106) -/

theorem encodedAs_family8 {i : Instr} {x y : Nibble} (n : Nibble) (hwf : i.wf = true) (he : encode i = formatXYN 0x8#4 x y n) :
    i.EncodedAs (0x8000 + n.toNat + x.toNat * 256 + y.toNat * 16) := by
  refine encodedAs_of_wf hwf ?_
  rw [he, formatXYN_toNat, BitVec.toNat_ofNat]
  omega

/-! ### The frame of a destination (00_scope.md R14) -/

section
variable {ps : List Part} {xs : List Nibble} {s u : State}

/-- The pc and the response are not in the frame. -/
theorem Frame.advance (h : Frame ps xs s u) : Frame ps xs s u.advance := h

theorem Frame.setReg (h : Frame ps xs s u) {x : Nibble} (hx : x ∈ xs) (b : Byte) : Frame ps xs s (u.setReg x b) := by
  obtain ⟨regs, rest⟩ := h
  refine ⟨fun r hr => ?_, rest⟩
  rw [State.reg_setReg_other _ b (ne_of_mem_of_not_mem hx hr).symm]
  exact regs r hr

theorem Frame.drawn (h : Frame ps xs s u) (hp : .host ∈ ps) : Frame ps xs s u.drawn := by
  obtain ⟨regs, keys, index, memory, stack, timers, display, control, -⟩ := h
  exact ⟨regs, keys, index, memory, stack, timers, display, control, fun hn => absurd hp hn⟩

end

/-! ### A completed instruction that wrote a destination, without and with VF -/

theorem State.reg_setReg_advance (s : State) (x : Nibble) (b : Byte) : (s.setReg x b).advance.reg x = b :=
  s.reg_setReg_same x b

theorem State.setReg_advance_completed (s : State) (x : Nibble) (b : Byte) :
    Completed (s.pc + 2#16) (s.setReg x b).advance :=
  State.finish_completed _ _

theorem State.setReg_advance_frame (s : State) (x : Nibble) (b : Byte) : Frame [] [x] s (s.setReg x b).advance :=
  ((frame_refl [] [x] s).setReg (List.mem_singleton_self x) b).advance

/-- The five instructions that write a result and a flag (R14): VF is written last, and holds the flag as the destination too. -/
theorem writes_result_and_flag {o : Host.Outcome State Fault Refusal} {s : State} {x : Nibble} {result flag : Byte} {n f : Nat}
    (ho : o = .next (s.setResultAndFlag x result flag).advance) (hresult : result.toNat = n) (hflag : flag.toNat = f) :
    ∃ t, o = .next t ∧ (x ≠ 0xF#4 → (t.reg x).toNat = n) ∧ (t.reg 0xF#4).toNat = f ∧ Completed (s.pc + 2#16) t ∧
      Frame [] [x, 0xF#4] s t := by
  have hreg (r : Nibble) : (s.setResultAndFlag x result flag).advance.reg r =
      if r = 0xF#4 then flag else if r = x then result else s.reg r := s.reg_setResultAndFlag x r result flag
  refine ⟨_, ho, fun hx => ?_, ?_, State.finish_completed _ _, ?_⟩
  · rw [hreg, if_neg hx, if_pos rfl, hresult]
  · rw [hreg, if_pos rfl, hflag]
  · exact (((frame_refl [] [x, 0xF#4] s).setReg (by simp) result).setReg (by simp) flag).advance

/-! ### The random byte (R182; log 3) -/

theorem State.randomByte_named {s : State} {r : Byte} (h : s.randomIn = some r) : s.randomByte = r := by
  rw [State.randomByte, h, Option.getD_some]

theorem State.randomByte_unnamed {s : State} (h : s.randomIn = none) : s.randomByte = Config.randomByte s.draws := by
  rw [State.randomByte, h, Option.getD_none]

end Sys2Proof.Machine
end

section
/-! PROOFS, the statements of 42_alu.md. -/

namespace Sys2Proof.Proofs

open Sys2Proof.Machine

/-- Settles O36: each is a write of its destination. -/
theorem loadsWriteTheDestination : Obligations.LoadsWriteTheDestination := by
  unfold Obligations.LoadsWriteTheDestination
  intro x y nn s
  refine ⟨⟨encodedAs_of_wf rfl (formatXNN_toNat 0x6#4 x nn), ?_⟩, encodedAs_family8 0x0#4 rfl rfl, ?_⟩
  · exact ⟨_, rfl, s.reg_setReg_advance x _, s.setReg_advance_completed x _, s.setReg_advance_frame x _⟩
  · exact ⟨_, rfl, s.reg_setReg_advance x _, s.setReg_advance_completed x _, s.setReg_advance_frame x _⟩

/-- Settles O37: a write of its destination, by `sumByte_toNat`; the frame keeps VF where it is not the destination. -/
theorem addImmediateWrapsWithoutFlag : Obligations.AddImmediateWrapsWithoutFlag := by
  unfold Obligations.AddImmediateWrapsWithoutFlag
  intro x nn s
  refine ⟨encodedAs_of_wf rfl (formatXNN_toNat 0x7#4 x nn), _, rfl, ?_, s.setReg_advance_completed x _,
    s.setReg_advance_frame x _⟩
  rw [s.reg_setReg_advance, sumByte_toNat]

/-- Settles O38: each is a write of its destination, and the library reads its result bit by bit. -/
theorem bitwiseOperationsBitByBit : Obligations.BitwiseOperationsBitByBit := by
  unfold Obligations.BitwiseOperationsBitByBit
  intro x y s
  refine ⟨⟨encodedAs_family8 0x1#4 rfl rfl, _, rfl, s.setReg_advance_completed x _, s.setReg_advance_frame x _, fun k => ?_⟩,
    ⟨encodedAs_family8 0x2#4 rfl rfl, _, rfl, s.setReg_advance_completed x _, s.setReg_advance_frame x _, fun k => ?_⟩,
    encodedAs_family8 0x3#4 rfl rfl, _, rfl, s.setReg_advance_completed x _, s.setReg_advance_frame x _, fun k => ?_⟩
  · rw [s.reg_setReg_advance, BitVec.getLsbD_or]
  · rw [s.reg_setReg_advance, BitVec.getLsbD_and]
  · rw [s.reg_setReg_advance, BitVec.getLsbD_xor, Bool.bne_eq_xor]

/-- Settles O39: the sum and the carry are written by `writes_result_and_flag`. -/
theorem addSetsCarry : Obligations.AddSetsCarry := by
  unfold Obligations.AddSetsCarry
  intro x y s
  exact ⟨encodedAs_family8 0x4#4 rfl rfl, writes_result_and_flag rfl (sumByte_toNat _ _) (flagByte_decide_toNat _)⟩

/-- Settles O40: the same of the difference and the not-borrow, V[X] being the minuend of SUB and V[Y] that of SUBN. -/
theorem subtractsSetNotBorrow : Obligations.SubtractsSetNotBorrow := by
  unfold Obligations.SubtractsSetNotBorrow
  intro x y s
  refine ⟨⟨encodedAs_family8 0x5#4 rfl rfl, ?_⟩, encodedAs_family8 0x7#4 rfl rfl, ?_⟩
  · exact writes_result_and_flag rfl (differenceByte_toNat (s.reg x) (s.reg y)) (flagByte_decide_toNat _)
  · exact writes_result_and_flag rfl (differenceByte_toNat (s.reg y) (s.reg x)) (flagByte_decide_toNat _)

/-- Settles O41: the same of V[X] shifted and the bit shifted out. -/
theorem shiftsSetTheBitShiftedOut : Obligations.ShiftsSetTheBitShiftedOut := by
  unfold Obligations.ShiftsSetTheBitShiftedOut
  intro x y s
  refine ⟨⟨encodedAs_family8 0x6#4 rfl rfl, ?_⟩, encodedAs_family8 0xE#4 rfl rfl, ?_⟩
  · exact writes_result_and_flag rfl (shiftedRight_toNat _) (bitOutRight_toNat _)
  · exact writes_result_and_flag rfl (shiftedLeft_toNat _) (bitOutLeft_toNat _)

/-- Settles O42: a write of its destination and of the draw counter, by whether the host named the byte. -/
theorem rndMasksTheRandomByte : Obligations.RndMasksTheRandomByte := by
  unfold Obligations.RndMasksTheRandomByte
  intro x nn s
  have hreg : (s.setReg x (s.randomByte &&& nn)).drawn.advance.reg x = s.randomByte &&& nn := s.reg_setReg_same x _
  have hframe : Frame [.host] [x] s (s.setReg x (s.randomByte &&& nn)).drawn.advance :=
    (((frame_refl [.host] [x] s).setReg (List.mem_singleton_self x) _).drawn (List.mem_singleton_self _)).advance
  refine ⟨encodedAs_of_wf rfl (formatXNN_toNat 0xC#4 x nn), _, rfl, State.finish_completed _ _, hframe, fun r hr => ?_,
    fun hr => ⟨?_, Nat.succ_ne_self s.draws⟩, rfl, rfl⟩
  · rw [hreg, State.randomByte_named hr]
  · rw [hreg, State.randomByte_unnamed hr]

end Sys2Proof.Proofs
end

section
/-! PROOFS, 43_index_memory.md R210 to R220: a write of I, a store at I by where its range lies, and a load of V0 to VX from I. -/

namespace Sys2Proof.Machine

/-! ### Encodings (30_encoding.md R106) -/

theorem encodedAs_familyF {i : Instr} {x : Nibble} (nn : Byte) (hwf : i.wf = true) (he : encode i = formatXNN 0xF#4 x nn) :
    i.EncodedAs (0xF000 + nn.toNat + x.toNat * 256) := by
  refine encodedAs_of_wf hwf ?_
  rw [he, formatXNN_toNat, BitVec.toNat_ofNat]
  omega

/-! ### The frame of a write of I, of memory and of a run of registers -/

section
variable {ps : List Part} {xs : List Nibble} {s u : State}

theorem Frame.setIndex (h : Frame ps xs s u) (hp : .index ∈ ps) (a : Word) : Frame ps xs s (u.setIndex a) := by
  obtain ⟨regs, keys, -, rest⟩ := h
  exact ⟨regs, keys, fun hn => absurd hp hn, rest⟩

theorem Frame.setMem (h : Frame ps xs s u) (hp : .memory ∈ ps) (m : Memory) : Frame ps xs s (u.setMem m) := by
  obtain ⟨regs, keys, index, -, rest⟩ := h
  exact ⟨regs, keys, index, fun hn => absurd hp hn, rest⟩

theorem Frame.setRegsFrom (bs : List Byte) {k : Nat} (h : Frame ps xs s u)
    (hk : ∀ j, j < k + bs.length → BitVec.ofNat 4 j ∈ xs) : Frame ps xs s (u.setRegsFrom k bs) := by
  induction bs generalizing u k with
  | nil => exact h
  | cons b bs ih =>
    rw [List.length_cons] at hk
    exact ih (h.setReg (hk k (by omega)) b) fun j hj => hk j (by omega)

end

/-! ### Instructions that write I (R210, R212, R214) -/

/-- The three instructions that write I, by the number written. -/
theorem writes_index {o : Host.Outcome State Fault Refusal} {s : State} {a : Word} {n : Nat}
    (ho : o = .next (s.setIndex a).advance) (ha : a.toNat = n) :
    ∃ t, o = .next t ∧ t.i.toNat = n ∧ Completed (s.pc + 2#16) t ∧ Frame [.index] [] s t :=
  ⟨_, ho, ha, State.finish_completed _ _, ((frame_refl [.index] [] s).setIndex (List.mem_singleton_self _) a).advance⟩

/-- Within the range of I no sum wraps (R212). -/
theorem indexSum_toNat {i : Word} {b : Byte} (h : i.toNat + b.toNat ≤ 0xFFF) :
    (BitVec.ofNat 16 (i.toNat + b.toNat)).toNat = i.toNat + b.toNat :=
  (BitVec.toNat_ofNat _ _).trans (Nat.mod_eq_of_lt (by omega))

/-- The glyph of a byte that is a digit (R214). -/
theorem glyphAddr_digit_toNat {b : Byte} (h : b.toNat ≤ 0x0F) : (glyphAddr (BitVec.ofNat 4 b.toNat)).toNat = 5 * b.toNat := by
  rw [glyphAddr_toNat, BitVec.toNat_ofNat, Nat.mod_eq_of_lt (by omega)]

section
variable {s : State} {x : Nibble}

theorem exec_addI_ok (h : s.i.toNat + (s.reg x).toNat ≤ 0xFFF) :
    exec (.addI x) s = .next (s.setIndex (BitVec.ofNat 16 (s.i.toNat + (s.reg x).toNat))).advance := by
  rw [exec, execAddI, indexSum_ok _ _ h]

theorem exec_addI_outOfRange (h : 0xFFF < s.i.toNat + (s.reg x).toNat) :
    exec (.addI x) s = .next (s.raiseFatal .iRegOutOfRange (some (encode (.addI x)))) := by
  rw [exec, execAddI, indexSum_error _ _ h]

theorem exec_ldF_ok (h : (s.reg x).toNat ≤ 0x0F) :
    exec (.ldF x) s = .next (s.setIndex (glyphAddr (BitVec.ofNat 4 (s.reg x).toNat))).advance := by
  rw [exec, execLdF, digitIndex_ok _ h]

theorem exec_ldF_outOfRange (h : 0x0F < (s.reg x).toNat) :
    exec (.ldF x) s = .next (s.raiseFatal .indexOutOfRange (some (encode (.ldF x)))) := by
  rw [exec, execLdF, digitIndex_error _ h]

end

/-! ### A store of `n + 1` bytes at I, the last of them at `I + n` (R215, R216, R218) -/

section
variable {s : State} {bytes : List Byte} {n : Nat}

theorem State.storeAtIndex_completes (hn : bytes.length = n + 1) (w : Word) (hlo : 80 ≤ s.i.toNat)
    (hhi : s.i.toNat + n ≤ 0xFFF) :
    (∀ (k : Nat) (hk : k < bytes.length), (s.storeAtIndex bytes w).mem.read (s.i.toNat + k) = bytes[k]) ∧
      MemKeptOutside s.i.toNat (n + 1) s (s.storeAtIndex bytes w) ∧ Completed (s.pc + 2#16) (s.storeAtIndex bytes w) ∧
      Frame [.memory] [] s (s.storeAtIndex bytes w) := by
  rw [s.storeAtIndex_ok bytes w ((checkWrite_eq_none _ _).2 (.inr ⟨hlo, by omega⟩)), ← hn]
  refine ⟨fun k hk => ?_, fun a ha => ?_, State.finish_completed _ _, ?_⟩
  · exact Memory.read_writeRange_at bytes s.mem s.i.toNat hk
  · exact Memory.read_writeRange_outside bytes s.mem ha
  · exact (frame_refl [.memory] [] s).setMem (List.mem_singleton_self _) _

theorem State.storeAtIndex_outOfRange (hn : bytes.length = n + 1) (w : Word) (h : 0xFFF < s.i.toNat + n) :
    TookFatal .memOutOfRange (some w) s (s.storeAtIndex bytes w) := by
  have hcheck : checkWrite s.i.toNat bytes.length = some .memOutOfRange := by
    rw [checkWrite_eq, if_pos (by omega)]
  rw [s.storeAtIndex_fatal bytes w _ hcheck]
  exact s.raiseFatal_tookFatal _ _

/-- Below the end of the font table a range of at most 16 bytes exists, so that check passes and this one raises. -/
theorem State.storeAtIndex_protected (hn : bytes.length = n + 1) (w : Word) (hsize : n < 16) (h : s.i.toNat ≤ 79) :
    TookFatal .protectedWrite (some w) s (s.storeAtIndex bytes w) := by
  have hcheck : checkWrite s.i.toNat bytes.length = some .protectedWrite := by
    rw [checkWrite_eq, if_neg (by omega), if_pos (by omega)]
  rw [s.storeAtIndex_fatal bytes w _ hcheck]
  exact s.raiseFatal_tookFatal _ _

end

/-- Byte `k` of the registers stored is register `k` (R218). -/
theorem State.regsUpTo_getElem_nibble (s : State) {x k : Nibble} (h : k.toNat < (s.regsUpTo x).length) :
    (s.regsUpTo x)[k.toNat] = s.reg k := by
  rw [s.regsUpTo_getElem, BitVec.ofNat_toNat, BitVec.setWidth_eq]

/-! ### A load of V0 to VX from I (R220) -/

theorem mem_destRegs_ldVxMem {x k : Nibble} : k ∈ destRegs (.ldVxMem x) ↔ k.toNat ≤ x.toNat := by
  rw [destRegs, List.mem_map]
  constructor
  · rintro ⟨j, hj, rfl⟩
    rw [List.mem_range] at hj
    exact (BitVec.toNat_ofNat j 4).trans_le ((Nat.mod_le _ _).trans (Nat.le_of_lt_succ hj))
  · intro h
    exact ⟨k.toNat, List.mem_range.2 (Nat.lt_succ_of_le h), by rw [BitVec.ofNat_toNat, BitVec.setWidth_eq]⟩

section
variable {s : State} {x : Nibble}

theorem exec_ldVxMem_ok (h : s.i.toNat + x.toNat ≤ 0xFFF) :
    exec (.ldVxMem x) s = .next (s.setRegsFrom 0 (s.mem.readRange s.i.toNat (x.toNat + 1))).advance := by
  rw [exec, execLdVxMem, (checkRead_eq_none _ _).2 (.inr (by omega))]

theorem exec_ldVxMem_outOfRange (h : 0xFFF < s.i.toNat + x.toNat) :
    exec (.ldVxMem x) s = .next (s.raiseFatal .memOutOfRange (some (encode (.ldVxMem x)))) := by
  rw [exec, execLdVxMem, checkRead_eq, if_pos (by omega)]

theorem State.reg_setRegsFrom_readRange (m : Memory) (base : Nat) {k : Nibble} (hk : k.toNat ≤ x.toNat) :
    (s.setRegsFrom 0 (m.readRange base (x.toNat + 1))).reg k = m.read (base + k.toNat) := by
  have hx := x.isLt
  rw [s.reg_setRegsFrom _ _ (by rw [m.readRange_length]; omega), m.readRange_length, if_pos (by omega), Nat.sub_zero,
    m.readRange_getD _ _ _ (by omega)]

theorem State.setRegsFrom_readRange_frame (s : State) (x : Nibble) (m : Memory) (base : Nat) :
    Frame [] (destRegs (.ldVxMem x)) s (s.setRegsFrom 0 (m.readRange base (x.toNat + 1))) := by
  refine (frame_refl _ _ s).setRegsFrom _ fun j hj => List.mem_map_of_mem (List.mem_range.2 ?_)
  rwa [m.readRange_length, Nat.zero_add] at hj

/-- Registers are not the pc, from which the instruction goes on. -/
theorem State.setRegsFrom_advance_completed (s : State) (k : Nat) (bs : List Byte) :
    Completed (s.pc + 2#16) (s.setRegsFrom k bs).advance := by
  obtain ⟨v', hv⟩ := s.setRegsFrom_eq bs k
  rw [hv]
  exact State.finish_completed _ _

end

end Sys2Proof.Machine
end

section
/-! PROOFS, the statements of 43_index_memory.md. -/

namespace Sys2Proof.Proofs

open Sys2Proof.Machine

/-- Settles O44: a write of I. -/
theorem loadIndexWritesTheAddress : Obligations.LoadIndexWritesTheAddress := by
  unfold Obligations.LoadIndexWritesTheAddress
  intro nnn s
  exact ⟨encodedAs_of_wf rfl (formatA_toNat 0xA#4 nnn), writes_index rfl (addrWord_toNat nnn)⟩

/-- Settles O45: a write of I, by whether the sum is in its range. -/
theorem addIndexExactOrFatal : Obligations.AddIndexExactOrFatal := by
  unfold Obligations.AddIndexExactOrFatal
  intro x s
  refine ⟨encodedAs_familyF 0x1E#8 rfl rfl, fun h => ?_, fun h => ?_⟩
  · exact writes_index (exec_addI_ok h) (indexSum_toNat h)
  · exact ⟨_, exec_addI_outOfRange h, s.raiseFatal_tookFatal _ _⟩

/-- Settles O46: a write of I, by whether V[X] is a digit. -/
theorem loadGlyphPointsAtTheFont : Obligations.LoadGlyphPointsAtTheFont := by
  unfold Obligations.LoadGlyphPointsAtTheFont
  intro x s
  refine ⟨encodedAs_familyF 0x29#8 rfl rfl, fun h => ?_, fun h => ?_⟩
  · exact writes_index (exec_ldF_ok h) (glyphAddr_digit_toNat h)
  · exact ⟨_, exec_ldF_outOfRange h, s.raiseFatal_tookFatal _ _⟩

/-- Settles O47: a store of three bytes at I, by where their range lies. -/
theorem bcdStoresThreeDigits : Obligations.BcdStoresThreeDigits := by
  unfold Obligations.BcdStoresThreeDigits
  intro x s
  have hlen : (bcdDigits (s.reg x)).length = 2 + 1 := bcdDigits_length _
  refine ⟨encodedAs_familyF 0x33#8 rfl rfl, fun hlo hhi => ?_, fun h => ?_, fun h => ?_⟩
  · obtain ⟨hread, rest⟩ := State.storeAtIndex_completes hlen (encode (.ldB x)) hlo hhi
    obtain ⟨hundreds, tens, ones⟩ := bcdDigits_toNat (s.reg x)
    refine ⟨_, rfl, ?_, ?_, ?_, rest⟩
    · exact (congrArg BitVec.toNat (hread 0 (by omega))).trans hundreds
    · exact (congrArg BitVec.toNat (hread 1 (by omega))).trans tens
    · exact (congrArg BitVec.toNat (hread 2 (by omega))).trans ones
  · exact ⟨_, rfl, State.storeAtIndex_outOfRange hlen _ h⟩
  · exact ⟨_, rfl, State.storeAtIndex_protected hlen _ (by omega) h⟩

/-- Settles O48: a store of the X + 1 bytes V0 to VX at I, by where their range lies. -/
theorem storeRegistersAtIndex : Obligations.StoreRegistersAtIndex := by
  unfold Obligations.StoreRegistersAtIndex
  intro x s
  have hlen : (s.regsUpTo x).length = x.toNat + 1 := s.regsUpTo_length x
  refine ⟨encodedAs_familyF 0x55#8 rfl rfl, fun hlo hhi => ?_, fun h => ?_, fun h => ?_⟩
  · obtain ⟨hread, rest⟩ := State.storeAtIndex_completes hlen (encode (.ldMemVx x)) hlo hhi
    refine ⟨_, rfl, fun k hk => ?_, rest⟩
    exact (hread k.toNat (by omega)).trans (s.regsUpTo_getElem_nibble _)
  · exact ⟨_, rfl, State.storeAtIndex_outOfRange hlen _ h⟩
  · exact ⟨_, rfl, State.storeAtIndex_protected hlen _ x.isLt h⟩

/-- Settles O49: a load of V0 to VX, which are its destinations, by whether the last byte exists. -/
theorem loadRegistersFromIndex : Obligations.LoadRegistersFromIndex := by
  unfold Obligations.LoadRegistersFromIndex
  intro x s
  refine ⟨encodedAs_familyF 0x65#8 rfl rfl, fun h => ?_, fun h => ?_⟩
  · refine ⟨_, exec_ldVxMem_ok h, fun k hk => ?_, s.setRegsFrom_advance_completed 0 _, ?_, fun k => mem_destRegs_ldVxMem⟩
    · exact State.reg_setRegsFrom_readRange s.mem s.i.toNat hk
    · exact (s.setRegsFrom_readRange_frame x s.mem s.i.toNat).advance
  · exact ⟨_, exec_ldVxMem_outOfRange h, s.raiseFatal_tookFatal _ _⟩

/-- Settles O50: the load reads the bytes that the store wrote, I being unchanged by the store. -/
theorem storedRegistersComeBack : Obligations.StoredRegistersComeBack := by
  unfold Obligations.StoredRegistersComeBack
  intro x s hlo hhi
  obtain ⟨-, hstore, -⟩ := storeRegistersAtIndex x s
  obtain ⟨t, ht, hstored, -, -, -, -, hindex, -⟩ := hstore hlo hhi
  refine ⟨t, ht, fun u hmem hi => ?_⟩
  have hui : u.i = s.i := hi.trans (hindex (by decide))
  obtain ⟨-, hload, -⟩ := loadRegistersFromIndex x u
  obtain ⟨v, hv, hloaded, -⟩ := hload (hui ▸ hhi)
  refine ⟨v, hv, fun k hk => ?_⟩
  rw [hloaded k hk, hmem, hui, hstored k hk]

end Sys2Proof.Proofs
end

section
/-! PROOFS, 44_display.md R240 to R253: DRW by whether its sprite's bytes exist, its pixels and its collision in the claims'
terms, and the same sprite on another state. -/

namespace Sys2Proof.Machine

/-! ### The frame of a write of the display -/

theorem Frame.setDisplay {ps : List Part} {xs : List Nibble} {s u : State} (h : Frame ps xs s u) (hp : .display ∈ ps)
    (fb : Framebuffer) (c : Bool) : Frame ps xs s (u.setDisplay fb c) := by
  obtain ⟨regs, keys, index, memory, stack, timers, -, rest⟩ := h
  exact ⟨regs, keys, index, memory, stack, timers, fun hn => absurd hp hn, rest⟩

/-! ### A state that was drawn on (R252) -/

section
variable (s : State) (k : Canvas)

theorem State.draw_fb : (s.draw k).fb = k.fb := rfl

theorem State.draw_changed : (s.draw k).changed = true := rfl

theorem State.draw_flag : (s.draw k).reg 0xF#4 = flagByte k.coll := by
  rw [draw_eq]
  exact State.reg_setReg_same _ _ _

theorem State.draw_completed : Completed (s.pc + 2#16) (s.draw k) := State.finish_completed _ _

theorem State.draw_frame : Frame [.display] [0xF#4] s (s.draw k) := by
  have hp : Part.display ∈ [Part.display] := List.mem_singleton_self _
  exact (((frame_refl _ _ s).setDisplay hp k.fb true).setReg (List.mem_singleton_self _) (flagByte k.coll)).advance

end

/-! ### The canvas of a DRW (R242, R243, R252) -/

/-- The framebuffer with the sprite of DRW Vx, Vy, n drawn on it. -/
def State.drwCanvas (s : State) (x y n : Nibble) : Canvas :=
  drawSprite s.fb (s.reg x) (s.reg y) (s.mem.readRange s.i.toNat n.toNat)

section
variable {s : State} {x y n : Nibble}

theorem exec_drw_ok (h : n.toNat = 0 ∨ s.i.toNat + n.toNat - 1 ≤ 0xFFF) :
    exec (.drw x y n) s = .next (s.draw (s.drwCanvas x y n)) := by
  rw [exec, execDrw, (checkRead_eq_none _ _).2 (by omega), State.drwCanvas]

theorem exec_drw_outOfRange (hn : n.toNat ≠ 0) (h : 0xFFF < s.i.toNat + n.toNat - 1) :
    exec (.drw x y n) s = .next (s.raiseFatal .memOutOfRange (some (encode (.drw x y n)))) := by
  rw [exec, execDrw, checkRead_eq, if_pos (by omega)]

/-- A sprite has at most 15 rows, so no two of them wrap to the same row. -/
theorem spriteRows_length_le (m : Memory) (base : Nat) : (m.readRange base n.toNat).length ≤ 32 := by
  have := n.isLt
  rw [m.readRange_length]
  omega

theorem State.drwCanvas_pixel_on {px : Fin 64} {py : Fin 32} (h : s.SpriteOn x y n px py) :
    (s.drwCanvas x y n).fb.pixel px py = !s.fb.pixel px py :=
  (drawSprite_pixel _ _ _ _ (spriteRows_length_le _ _) px py).left ((spriteCovers_readRange ..).2 h)

theorem State.drwCanvas_pixel_off {px : Fin 64} {py : Fin 32} (h : ¬s.SpriteOn x y n px py) :
    (s.drwCanvas x y n).fb.pixel px py = s.fb.pixel px py :=
  (drawSprite_pixel _ _ _ _ (spriteRows_length_le _ _) px py).right (mt (spriteCovers_readRange ..).1 h)

theorem State.drwCanvas_coll :
    (s.drwCanvas x y n).coll = true ↔ ∃ px py, s.SpriteOn x y n px py ∧ s.fb.pixel px py = true := by
  simp only [State.drwCanvas, drawSprite_coll _ _ _ _ (spriteRows_length_le _ _), spriteCovers_readRange]

theorem State.draw_drwCanvas_flag_set (h : ∃ px py, s.SpriteOn x y n px py ∧ s.fb.pixel px py = true) :
    (s.draw (s.drwCanvas x y n)).reg 0xF#4 = 1#8 := by
  rw [State.draw_flag, State.drwCanvas_coll.2 h, flagByte, if_pos rfl]

theorem State.draw_drwCanvas_flag_clear (h : ¬∃ px py, s.SpriteOn x y n px py ∧ s.fb.pixel px py = true) :
    (s.draw (s.drwCanvas x y n)).reg 0xF#4 = 0#8 := by
  rw [State.draw_flag, flagByte, if_neg (mt State.drwCanvas_coll.1 h)]

theorem State.draw_drwCanvas_flag_eq_one :
    (s.draw (s.drwCanvas x y n)).reg 0xF#4 = 1#8 ↔ ∃ px py, s.SpriteOn x y n px py ∧ s.fb.pixel px py = true := by
  refine ⟨fun h => by_contra fun hn => ?_, State.draw_drwCanvas_flag_set⟩
  exact absurd (h.symm.trans (State.draw_drwCanvas_flag_clear hn)) (by decide)

/-! ### The same sprite on another state (R253) -/

/-- A sprite is its bytes and its place. -/
theorem State.spriteOn_congr {u : State} (hi : u.i = s.i) (hx : u.reg x = s.reg x) (hy : u.reg y = s.reg y)
    (hm : ∀ r, r < n.toNat → u.mem.read (s.i.toNat + r) = s.mem.read (s.i.toNat + r)) (px : Fin 64) (py : Fin 32) :
    u.SpriteOn x y n px py ↔ s.SpriteOn x y n px py := by
  refine exists_congr fun r => exists_congr fun c => and_congr_right fun hr => ?_
  rw [hi, hm r hr, hx, hy]

/-- Inverting the same pixels twice inverts none. -/
theorem State.drwCanvas_fb_restores {u : State} (hfb : u.fb = (s.drwCanvas x y n).fb)
    (hon : ∀ px py, u.SpriteOn x y n px py ↔ s.SpriteOn x y n px py) : (u.drwCanvas x y n).fb = s.fb := by
  refine Framebuffer.ext_pixel fun px py => ?_
  by_cases h : s.SpriteOn x y n px py
  · rw [State.drwCanvas_pixel_on ((hon px py).2 h), hfb, State.drwCanvas_pixel_on h, Bool.not_not]
  · rw [State.drwCanvas_pixel_off (mt (hon px py).1 h), hfb, State.drwCanvas_pixel_off h]

/-- After a draw, a lit pixel of the sprite is one that the draw lit. -/
theorem State.spriteOn_and_lit_iff (px : Fin 64) (py : Fin 32) :
    s.SpriteOn x y n px py ∧ (s.drwCanvas x y n).fb.pixel px py = true ↔
      s.fb.pixel px py = false ∧ (s.drwCanvas x y n).fb.pixel px py = true := by
  by_cases h : s.SpriteOn x y n px py
  · simp [h, State.drwCanvas_pixel_on h]
  · simp [h, State.drwCanvas_pixel_off h]

end

end Sys2Proof.Machine
end

section
/-! PROOFS, the statements of 44_display.md. -/

namespace Sys2Proof.Proofs

open Sys2Proof.Machine

/-- Settles O52: the draw of `State.drwCanvas`, whose pixels and collision are those of the sprite, by whether its bytes exist. -/
theorem drawXorsTheSprite : Obligations.DrawXorsTheSprite := by
  unfold Obligations.DrawXorsTheSprite
  intro x y n s
  refine ⟨encodedAs_of_wf rfl (formatXYN_toNat 0xD#4 x y n), fun h => ?_, fun hn h => ?_⟩
  · exact ⟨_, exec_drw_ok h, fun _ _ => State.drwCanvas_pixel_on, fun _ _ => State.drwCanvas_pixel_off,
      State.draw_drwCanvas_flag_set, State.draw_drwCanvas_flag_clear, s.draw_changed _, s.draw_completed _, s.draw_frame _⟩
  · exact ⟨_, exec_drw_outOfRange hn h, s.raiseFatal_tookFatal _ _⟩

/-- Settles O53: both draws have the same sprite (`State.spriteOn_congr`), so the second inverts back what the first inverted, and
erases what the first lit. -/
theorem drawingTwiceRestoresTheScreen : Obligations.DrawingTwiceRestoresTheScreen := by
  unfold Obligations.DrawingTwiceRestoresTheScreen
  intro x y n s h
  refine ⟨_, exec_drw_ok h, fun u hfb hi hx hy hm => ?_⟩
  rw [State.draw_fb] at hfb
  have hon := State.spriteOn_congr hi hx hy hm
  refine ⟨_, exec_drw_ok (hi ▸ h), State.drwCanvas_fb_restores hfb hon, State.draw_drwCanvas_flag_eq_one.trans ?_⟩
  exact exists_congr fun px => exists_congr fun py => by rw [hon, hfb, State.spriteOn_and_lit_iff, State.draw_fb]

/-- Settles O26: the two transactions, taken off the host's list. -/
theorem hostReadsOfTheDisplay : Obligations.HostReadsOfTheDisplay := by
  unfold Obligations.HostReadsOfTheDisplay
  intro s rest
  refine ⟨fun hp => ?_, fun hp => ?_⟩
  · rw [step_pending hp, transact, State.snapshot]
  · rw [step_pending hp, transact, State.consumeChanged]

/-- Settles O51: a write of the display, all dark (`Framebuffer.pixel_dark`). -/
theorem clsDarkensEverything : Obligations.ClsDarkensEverything := by
  unfold Obligations.ClsDarkensEverything
  intro s
  refine ⟨encodedAs_of_wf rfl rfl, _, rfl, Framebuffer.pixel_dark, rfl, State.finish_completed _ _, ?_⟩
  exact ((frame_refl [.display] [] s).setDisplay (List.mem_singleton_self _) darkFramebuffer true).advance

end Sys2Proof.Proofs
end

section
/-! PROOFS, 45_timers_input.md R280 to R292: a timer's countdown, a key set in the latch, the poll of the key-wait by the keys newly
pressed, and a suspended wait through every transaction of the host. -/

namespace Sys2Proof.Machine

/-! ### The frame of a write of a timer and of run_state -/

section
variable {ps : List Part} {xs : List Nibble} {s u : State}

theorem Frame.setDelay (h : Frame ps xs s u) (hp : .timers ∈ ps) (b : Byte) : Frame ps xs s (u.setDelay b) := by
  obtain ⟨regs, keys, index, memory, stack, -, rest⟩ := h
  exact ⟨regs, keys, index, memory, stack, fun hn => absurd hp hn, rest⟩

theorem Frame.setSound (h : Frame ps xs s u) (hp : .timers ∈ ps) (b : Byte) : Frame ps xs s (u.setSound b) := by
  obtain ⟨regs, keys, index, memory, stack, -, rest⟩ := h
  exact ⟨regs, keys, index, memory, stack, fun hn => absurd hp hn, rest⟩

theorem Frame.setRunState (h : Frame ps xs s u) (hp : .control ∈ ps) (r : RunState) :
    Frame ps xs s { u with runState := r } := by
  obtain ⟨regs, keys, index, memory, stack, timers, display, -, host⟩ := h
  exact ⟨regs, keys, index, memory, stack, timers, display, fun hn => absurd hp hn, host⟩

end

/-! ### Ticks (R280, R281) -/

theorem State.countDown_toNat (b : Byte) : (State.countDown b).toNat = b.toNat - 1 := by
  unfold State.countDown
  split <;> bv_omega

/-- ST is at 1 exactly when its number is (R280). -/
theorem byte_beq_one (b : Byte) : (b == 1#8) = decide (b.toNat = 1) :=
  decide_eq_decide.2 BitVec.toNat_inj.symm

/-- A run begins with a step of the machine. -/
theorem core_run_succ {s t : State} (h : step s = .next t) (k : Nat) : core.run (k + 1) s = core.run k t := by
  have hstep : core.step s = .next t := h
  simp only [Host.Core.run, hstep]

/-! ### A key set in the latch (R285) -/

/-- The bit that SetKey writes is that of its key. -/
theorem keyBit_getLsbD (k j : Nibble) : (1#16 <<< k.toNat).getLsbD j.toNat = decide (j = k) := by
  have hk : k.toNat < 16 := k.isLt
  rw [← BitVec.twoPow_eq, BitVec.getLsbD_twoPow, decide_eq_true hk, Bool.true_and]
  exact decide_eq_decide.2 (BitVec.toNat_inj.trans eq_comm)

theorem State.keyPressed_setKey (s : State) (k j : Nibble) (p : Bool) :
    (s.setKey k p).keyPressed j = if j = k then p else s.keyPressed j := by
  have hj : j.toNat < 16 := j.isLt
  cases p with
  | true =>
    simp only [State.keyPressed, State.setKey, if_true, BitVec.getLsbD_or, keyBit_getLsbD]
    by_cases h : j = k <;> simp [h]
  | false =>
    simp only [State.keyPressed, State.setKey, Bool.false_eq_true, if_false, BitVec.getLsbD_and, BitVec.getLsbD_not,
      keyBit_getLsbD, hj]
    by_cases h : j = k <;> simp [h]

/-! ### The poll of the key-wait by the keys newly pressed (R291) -/

section
variable {s : State} {k : Nibble}

theorem State.newKeys_getLsbD : s.newKeys.getLsbD k.toNat = true ↔ s.NewlyPressed k := by
  have hk : k.toNat < 16 := k.isLt
  simp [State.newKeys, State.NewlyPressed, State.keyPressed, hk]

theorem State.newKeys_getLsbD_clear (h : ¬s.NewlyPressed k) : s.newKeys.getLsbD k.toNat = false :=
  Bool.eq_false_iff.2 (mt State.newKeys_getLsbD.1 h)

theorem State.leastKey_newKeys_none (h : ∀ k, ¬s.NewlyPressed k) : leastKey s.newKeys = none := by
  refine (leastKey_eq_none _).2 (BitVec.eq_of_getLsbD_eq fun n hn => ?_)
  exact (State.newKeys_getLsbD_clear (h (BitVec.ofNatLT n hn))).trans BitVec.getLsbD_zero.symm

theorem State.leastKey_newKeys_some (hk : s.NewlyPressed k) (hleast : ∀ j : Nibble, j.toNat < k.toNat → ¬s.NewlyPressed j) :
    leastKey s.newKeys = some k.toNat := by
  refine (leastKey_eq_some _ _).2 ⟨k.isLt, State.newKeys_getLsbD.2 hk, fun n hn => ?_⟩
  exact State.newKeys_getLsbD_clear (hleast (BitVec.ofNatLT n (hn.trans k.isLt)) hn)

theorem State.keyWaitPoll_waits (h : ∀ k, ¬s.NewlyPressed k) : s.keyWaitPoll = s.keepWaiting := by
  rw [State.keyWaitPoll, State.leastKey_newKeys_none h]

theorem State.keyWaitPoll_completes (hk : s.NewlyPressed k) (hleast : ∀ j : Nibble, j.toNat < k.toNat → ¬s.NewlyPressed j) :
    s.keyWaitPoll = s.completeKeyWait k.toNat := by
  rw [State.keyWaitPoll, State.leastKey_newKeys_some hk hleast]

/-- The poll neither reads nor writes the host's plans. -/
theorem State.keyWaitPoll_withHost (s : State) (p : List Transaction) (o : Option Byte) :
    State.keyWaitPoll { s with pending := p, randomIn := o } = { s.keyWaitPoll with pending := p, randomIn := o } := by
  have hnew : State.newKeys { s with pending := p, randomIn := o } = s.newKeys := rfl
  rw [State.keyWaitPoll, State.keyWaitPoll, hnew]
  cases leastKey s.newKeys with
  | none => rfl
  | some k => rfl

/-- A Step in AWAIT_KEY is the poll, with the Step taken off the host's list. -/
theorem step_awaitKey (hs : s.NextIsStep) (hr : s.runState = .awaitKey) : step s = .next s.stepDone.keyWaitPoll := by
  have hcycle (p : List Transaction) (o : Option Byte) :
      cycle { s with pending := p, randomIn := o } = .next { s.keyWaitPoll with pending := p, randomIn := o } :=
    (cycle_awaitKey (s := { s with pending := p, randomIn := o }) hr).trans (congrArg _ (s.keyWaitPoll_withHost p o))
  rw [step_of_cycle hs hcycle]
  obtain ⟨p, o, hd⟩ := s.stepDone_block
  rw [hd]
  exact congrArg _ (s.keyWaitPoll_withHost p o).symm

/-- The key that completes a wait, as the number in V[wait_x]. -/
theorem State.reg_completeKeyWait_toNat (s : State) (k : Nibble) :
    ((s.completeKeyWait k.toNat).reg s.waitX).toNat = k.toNat := by
  have hreg : (s.completeKeyWait k.toNat).reg s.waitX = BitVec.ofNat 8 k.toNat := s.reg_setReg_same _ _
  rw [hreg, BitVec.toNat_ofNat, Nat.mod_eq_of_lt (by omega)]

theorem State.completeKeyWait_frame (s : State) (k : Nat) : Frame [.control] [s.waitX] s (s.completeKeyWait k) := by
  have hreg := (frame_refl [.control] [s.waitX] s).setReg (List.mem_singleton_self _) (BitVec.ofNat 8 k)
  exact (hreg.setRunState (List.mem_singleton_self _) .running).advance

/-! ### A suspended wait with no key newly pressed (R292, R343) -/

/-- Waiting for a key, with none newly pressed. -/
def State.Waiting (s : State) : Prop := s.runState = .awaitKey ∧ ∀ k, ¬s.NewlyPressed k

/-- From `s` to `t` the wait went on where it stood, with the registers and memory as they were. -/
def State.WaitsOn (s t : State) : Prop := t.Waiting ∧ t.pc = s.pc ∧ t.v = s.v ∧ t.mem = s.mem

/-- Waiting is read from run_state, the latch and wait_prev alone. -/
theorem State.Waiting.congr {t : State} (h : s.Waiting) (hr : t.runState = s.runState) (hk : t.keys = s.keys)
    (hp : t.waitPrev = s.waitPrev) : t.Waiting := by
  simp only [State.Waiting, State.NewlyPressed, State.keyPressed, hr, hk, hp]
  exact h

/-- A poll remembers the latch, in which no key is then new. -/
theorem State.Waiting.keyWaitPoll_waitsOn (h : s.Waiting) : s.WaitsOn s.keyWaitPoll := by
  obtain ⟨hr, hnew⟩ := h
  rw [State.keyWaitPoll_waits hnew]
  refine ⟨⟨hr, fun k ⟨hpressed, hprev⟩ => ?_⟩, rfl, rfl, rfl⟩
  exact Bool.false_ne_true (hprev.symm.trans hpressed)

/-- A key released is not pressed, and the other keys are as before. -/
theorem State.Waiting.setKey_waitsOn (h : s.Waiting) (k : Nibble) : s.WaitsOn (s.setKey k false) := by
  obtain ⟨hr, hnew⟩ := h
  refine ⟨⟨hr, fun j ⟨hpressed, hprev⟩ => ?_⟩, rfl, rfl, rfl⟩
  rw [State.keyPressed_setKey] at hpressed
  split at hpressed
  · exact Bool.false_ne_true hpressed
  · exact hnew j ⟨hpressed, hprev⟩

/-- No transaction but Reset and a key press ends the wait: LoadProgram is refused, as the block is not UNLOADED. -/
theorem State.Waiting.transact_waitsOn (h : s.Waiting) {tr : Transaction} (hreset : tr ≠ .reset) (hpress : tr.presses = false) :
    ∃ t, transact tr s = .next t ∧ s.WaitsOn t := by
  cases tr with
  | reset => exact absurd rfl hreset
  | loadProgram bytes =>
    have hloaded : s.runState ≠ .unloaded := by rw [h.left]; nofun
    rw [transact, State.loadProgram_alreadyLoaded hloaded]
    exact ⟨_, rfl, h.congr rfl rfl rfl, rfl, rfl, rfl⟩
  | step r =>
    have hnamed : State.Waiting { s with randomIn := some r } := h.congr rfl rfl rfl
    obtain ⟨hwait, hkept⟩ := hnamed.keyWaitPoll_waitsOn
    rw [transact, cycle_awaitKey hnamed.left]
    exact ⟨_, rfl, hwait.congr rfl rfl rfl, hkept⟩
  | setKey k pressed =>
    obtain rfl : pressed = false := hpress
    exact ⟨_, rfl, h.setKey_waitsOn k⟩
  | tick | snapshot | consumeChanged => exact ⟨_, rfl, h.congr rfl rfl rfl, rfl, rfl, rfl⟩

/-- The same of a step of the machine, which is such a transaction or a Step that nothing names. -/
theorem State.Waiting.step_waitsOn (h : s.Waiting) (hnext : ∀ u, s.pending.head? = some u → u ≠ .reset ∧ u.presses = false) :
    ∃ t, step s = .next t ∧ s.WaitsOn t := by
  cases hp : s.pending with
  | nil => exact ⟨_, (step_free hp).trans (cycle_awaitKey h.left), h.keyWaitPoll_waitsOn⟩
  | cons tr rest =>
    obtain ⟨hreset, hpress⟩ := hnext tr (by rw [hp, List.head?_cons])
    have hrest : State.Waiting { s with pending := rest } := h.congr rfl rfl rfl
    rw [step_pending hp]
    exact hrest.transact_waitsOn hreset hpress

end

end Sys2Proof.Machine
end

section
/-! PROOFS, the statements of 45_timers_input.md. -/

namespace Sys2Proof.Proofs

open Sys2Proof.Machine

/-- Settles O22: the countdown of each timer (`State.countDown_toNat`). -/
theorem tickCountsDown : Obligations.TickCountsDown := by
  unfold Obligations.TickCountsDown
  intro s rest hp
  refine ⟨_, step_pending hp, State.countDown_toNat s.dt, State.countDown_toNat s.st, ?_, rfl⟩
  exact congrArg Response.pulse (byte_beq_one s.st)

/-- Settles O23, by induction on the number of ticks: the first is `tickCountsDown`, and the others are a run from what it leaves. -/
theorem ticksClampAndPulseOnce : Obligations.TicksClampAndPulseOnce := by
  unfold Obligations.TicksClampAndPulseOnce
  intro n
  induction n with
  | zero =>
    intro s hp
    obtain ⟨t, ht, hdt, hst, hpulse, -⟩ := tickCountsDown s [] hp
    exact ⟨t, core_run_succ ht 0, hdt, hst, hpulse⟩
  | succ n ih =>
    intro s hp
    obtain ⟨t, ht, hdt, hst, -, hrest⟩ := tickCountsDown s (List.replicate (n + 1) .tick) hp
    obtain ⟨u, hu, hudt, hust, hpulse⟩ := ih t (by rw [hrest])
    refine ⟨u, (core_run_succ ht (n + 1)).trans hu, by omega, by omega, hpulse.trans ?_⟩
    exact congrArg Response.pulse (decide_eq_decide.2 (by omega))

/-- Settles O24: the latch is read key by key (`State.keyPressed_setKey`). -/
theorem setKeySetsOneKey : Obligations.SetKeySetsOneKey := by
  unfold Obligations.SetKeySetsOneKey
  intro s k p rest hp
  have hkey (j : Nibble) := State.keyPressed_setKey { s with pending := rest } k j p
  exact ⟨_, step_pending hp, (hkey k).trans (if_pos rfl), fun j hj => (hkey j).trans (if_neg hj), rfl⟩

/-- Settles O54: FX07 is a write of its destination, FX15 and FX18 are each a write of one timer. -/
theorem timerInstructionsMoveTheTimers : Obligations.TimerInstructionsMoveTheTimers := by
  unfold Obligations.TimerInstructionsMoveTheTimers
  intro x s
  have hframe : Frame [.timers] [] s s := frame_refl _ _ s
  have hp : Part.timers ∈ [Part.timers] := List.mem_singleton_self _
  refine ⟨⟨encodedAs_familyF 0x07#8 rfl rfl, _, rfl, ?_⟩, ⟨encodedAs_familyF 0x15#8 rfl rfl, _, rfl, ?_⟩,
    encodedAs_familyF 0x18#8 rfl rfl, _, rfl, ?_⟩
  · exact ⟨s.reg_setReg_advance x _, s.setReg_advance_completed x _, s.setReg_advance_frame x _⟩
  · exact ⟨rfl, rfl, State.finish_completed _ _, (hframe.setDelay hp _).advance⟩
  · exact ⟨rfl, rfl, State.finish_completed _ _, (hframe.setSound hp _).advance⟩

/-- Settles O55: the whole effect is `State.enterKeyWait`, which does not read the keys held. -/
theorem keyWaitEntersWithoutCompleting : Obligations.KeyWaitEntersWithoutCompleting := by
  unfold Obligations.KeyWaitEntersWithoutCompleting
  intro x s
  exact ⟨encodedAs_familyF 0x0A#8 rfl rfl, _, rfl, rfl, rfl, rfl, rfl, State.finish_completed _ _,
    enterKeyWait_frame s x (List.mem_singleton_self _) []⟩

/-- Settles O56: the Step is the poll (`step_awaitKey`), by whether a key is newly pressed. -/
theorem keyWaitPollCompletesOnANewKey : Obligations.KeyWaitPollCompletesOnANewKey := by
  unfold Obligations.KeyWaitPollCompletesOnANewKey
  intro s hs hr
  rw [step_awaitKey hs hr]
  obtain ⟨p, o, hd⟩ := s.stepDone_block
  rw [hd]
  refine ⟨fun hnone => ?_, fun k hk hleast => ?_⟩
  · exact congrArg _ (State.keyWaitPoll_waits (s := { s with pending := p, randomIn := o }) hnone)
  · refine ⟨_, congrArg _ (State.keyWaitPoll_completes (s := { s with pending := p, randomIn := o }) hk hleast), ?_⟩
    exact ⟨State.reg_completeKeyWait_toNat _ k, rfl, rfl, rfl, rfl, State.finish_completed _ _,
      State.completeKeyWait_frame { s with pending := p, randomIn := o } k.toNat⟩

/-- Settles O57: no such step ends a wait (`State.Waiting.step_waitsOn`). -/
theorem waitNeedsAPressOrAReset : Obligations.WaitNeedsAPressOrAReset := by
  unfold Obligations.WaitNeedsAPressOrAReset
  intro s t hr hnew hnext ht
  have hs : s.Waiting := ⟨hr, hnew⟩
  obtain ⟨t', ht', ⟨hwait, hnone⟩, hpc, hv, hmem⟩ := hs.step_waitsOn hnext
  cases ht.symm.trans ht'
  exact ⟨hwait, hpc, hv, hmem, hnone⟩

end Sys2Proof.Proofs
end

section
/-! PROOFS, 60_exceptions.md R306, R320 to R322: a Step that is one report to the host, and what the host's transactions leave of a
FAULTED block. -/

namespace Sys2Proof.Machine

section
variable {s : State}

/-! ### A Step that is one operation of the block (30_encoding.md R100) -/

/-- Where the cycle is the operation `f` whatever the host plans, and `f` leaves those plans alone, a Step is `f` with the Step taken
off the host's list. -/
theorem step_eq_of_cycle_eq (f : State → State) (hs : s.NextIsStep)
    (hcycle : ∀ (p : List Transaction) (o : Option Byte),
      cycle { s with pending := p, randomIn := o } = .next (f { s with pending := p, randomIn := o }))
    (hf : ∀ (p : List Transaction) (o : Option Byte),
      f { s with pending := p, randomIn := o } = { f s with pending := p, randomIn := o }) :
    step s = .next (f s.stepDone) := by
  rw [step_of_cycle hs fun p o => (hcycle p o).trans (congrArg _ (hf p o))]
  obtain ⟨p, o, hd⟩ := s.stepDone_block
  rw [hd]
  exact congrArg _ (hf p o).symm

theorem step_unloaded (hs : s.NextIsStep) (hr : s.runState = .unloaded) :
    step s = .next (s.stepDone.hostError .notLoaded) :=
  step_eq_of_cycle_eq (·.hostError .notLoaded) hs
    (fun p o => cycle_unloaded (s := { s with pending := p, randomIn := o }) hr) fun _ _ => rfl

theorem step_faulted (hs : s.NextIsStep) (hr : s.runState = .faulted) :
    step s = .next (s.stepDone.hostError .faulted) :=
  step_eq_of_cycle_eq (·.hostError .faulted) hs
    (fun p o => cycle_faulted (s := { s with pending := p, randomIn := o }) hr) fun _ _ => rfl

theorem step_unknown {u : Unknown} (hs : s.NextIsStep) (hr : s.runState = .running) (hf : s.fetchable = true)
    (hd : decode s.fetchedWord = .error u) : step s = .next (s.stepDone.execUnknown s.fetchedWord) :=
  step_eq_of_cycle_eq (·.execUnknown s.fetchedWord) hs
    (fun p o => (cycle_running (s := { s with pending := p, randomIn := o }) hr).trans (runCycle_unknown hf hd)) fun _ _ => rfl

/-! ### A word that does not decode (20_memory.md R77) -/

/-- The word fetched is UNKNOWN as its two bytes are. -/
theorem decode_fetchedWord_of_unknown {u : Unknown}
    (h : decodeBytes [s.mem.read s.pc.toNat, s.mem.read (s.pc.toNat + 1)] = .error (.unknown u)) :
    decode s.fetchedWord = .error u := by
  rw [decodeBytes] at h
  split at h
  next => cases h
  next hd => cases h; exact hd

/-! ### A FAULTED block under the host's transactions (R48, R322) -/

/-- The block is FAULTED in `t`, with the fault record and the program state of `s`. -/
def State.FaultedAs (s t : State) : Prop :=
  t.runState = .faulted ∧ t.fault = s.fault ∧ t.pc = s.pc ∧ t.i = s.i ∧ t.v = s.v ∧ t.mem = s.mem ∧ t.fb = s.fb ∧ StackKept s t

theorem State.faultedAs_self (h : s.runState = .faulted) : s.FaultedAs s := ⟨h, rfl, rfl, rfl, rfl, rfl, rfl, rfl, rfl⟩

/-- No transaction but Reset ends FAULTED: a Step is a host error, LoadProgram is refused, as the block is not UNLOADED, and the
others write the timers, the latch and `changed` alone. -/
theorem State.transact_faultedAs (h : s.runState = .faulted) {tr : Transaction} (hreset : tr ≠ .reset) :
    ∃ t, transact tr s = .next t ∧ s.FaultedAs t := by
  have hself : s.FaultedAs s := faultedAs_self h
  cases tr with
  | reset => exact absurd rfl hreset
  | loadProgram bytes =>
    have hloaded : s.runState ≠ .unloaded := by rw [h]; nofun
    rw [transact, State.loadProgram_alreadyLoaded hloaded]
    exact ⟨_, rfl, hself⟩
  | step r =>
    have hcycle : cycle { s with randomIn := some r } = .next (State.hostError { s with randomIn := some r } .faulted) :=
      cycle_faulted h
    rw [transact, hcycle]
    exact ⟨_, rfl, hself⟩
  | tick | setKey | snapshot | consumeChanged => exact ⟨_, rfl, hself⟩

/-- The same of a step of the machine, which is such a transaction or a Step that nothing names. -/
theorem State.step_faultedAs (h : s.runState = .faulted) (hreset : s.pending.head? ≠ some .reset) :
    ∃ t, step s = .next t ∧ s.FaultedAs t := by
  cases hp : s.pending with
  | nil => exact ⟨_, (step_free hp).trans (cycle_faulted h), faultedAs_self h⟩
  | cons tr rest =>
    have htr : tr ≠ .reset := fun he => hreset (by rw [hp, he, List.head?_cons])
    rw [step_pending hp]
    exact State.transact_faultedAs (s := { s with pending := rest }) h htr

end

end Sys2Proof.Machine
end

section
/-! PROOFS, the statements of 60_exceptions.md. -/

namespace Sys2Proof.Proofs

open Sys2Proof.Machine

/-- Settles O17: no such step ends FAULTED (`State.step_faultedAs`). -/
theorem faultedUntilReset : Obligations.FaultedUntilReset := by
  unfold Obligations.FaultedUntilReset
  intro s t hr hreset ht
  obtain ⟨t', ht', hkept⟩ := State.step_faultedAs hr hreset
  cases ht.symm.trans ht'
  exact hkept

/-- Settles O9: the Step is the report of the word fetched (`step_unknown`), whose number its two bytes give. -/
theorem unknownWordIsReportedAndSkipped : Obligations.UnknownWordIsReportedAndSkipped := by
  unfold Obligations.UnknownWordIsReportedAndSkipped
  intro s u hs hr hlo hhi hd
  have hf : s.fetchable = true := s.fetchable_iff.2 ⟨hlo, by omega⟩
  refine ⟨s.fetchedWord, s.fetchedWord_toNat, ?_⟩
  rw [step_unknown hs hr hf (decode_fetchedWord_of_unknown hd)]
  obtain ⟨p, o, hdone⟩ := s.stepDone_block
  rw [hdone]
  rfl

/-- Settles O10: both Steps are their host error (`step_unloaded`, `step_faulted`), which writes the response alone. -/
theorem stepNotLoadedOrFaultedChangesNothing : Obligations.StepNotLoadedOrFaultedChangesNothing := by
  unfold Obligations.StepNotLoadedOrFaultedChangesNothing
  exact fun s hs => ⟨step_unloaded hs, step_faulted hs⟩

end Sys2Proof.Proofs
end

section
/-! PROOFS, 70_reset_and_hazards.md R340, R353: the parts of the reset state that are read one entry at a time, and every transaction
of the host answered. -/

namespace Sys2Proof.Machine

/-! ### The reset state (R340) -/

theorem State.reg_resetBlock (s : State) (x : Nibble) : s.resetBlock.reg x = 0x00#8 :=
  Vector.getElem_replicate _

theorem State.stack_resetBlock {s : State} {k : Nat} {a : Word} (h : s.resetBlock.stack[k]? = some a) : a = 0x0000#16 := by
  have hk : (Vector.replicate 16 0x0000#16)[k]? = some a := h
  rw [Vector.getElem?_replicate] at hk
  split at hk
  next => exact (Option.some.inj hk).symm
  next => cases hk

/-- Inside the font table an unlisted byte is the table's own (20_memory.md R83, R90). -/
theorem fontTable_getElem?_of_lt {a : Nat} (h : a < 80) : fontTable[a]? = some (unlistedByte a) := by
  have hlen : a < fontTable.length := h
  rw [unlistedByte, if_pos ((isFontAddr_iff a).2 h), fontBase, Nat.sub_zero, List.getElem?_eq_getElem hlen,
    List.getD_eq_getElem _ _ hlen]

/-- Above the font table an unlisted byte is 0x00 (20_memory.md R83). -/
theorem unlistedByte_of_le {a : Nat} (h : 80 ≤ a) : unlistedByte a = 0x00#8 :=
  if_neg fun hfont => absurd ((isFontAddr_iff a).1 hfont) (by omega)

/-! ### Every step answered (R353) -/

/-- A Step ends as its cycle does, and the other transactions of the host are one operation each (00_scope.md R9). -/
theorem transact_eq_next (tr : Transaction) (s : State) : ∃ t, transact tr s = .next t := by
  cases tr with
  | step r =>
    obtain ⟨t, ht, -⟩ := cycle_ends { s with randomIn := some r }
    exact ⟨_, by rw [transact, ht, dropRandom_next]⟩
  | reset | loadProgram | tick | setKey | snapshot | consumeChanged => exact ⟨_, rfl⟩

theorem step_eq_next (s : State) : ∃ t, step s = .next t := by
  cases hp : s.pending with
  | nil =>
    obtain ⟨t, ht, -⟩ := cycle_ends s
    exact ⟨t, (step_free hp).trans ht⟩
  | cons tr rest =>
    rw [step_pending hp]
    exact transact_eq_next tr { s with pending := rest }

end Sys2Proof.Machine
end

section
/-! PROOFS, the statements of 70_reset_and_hazards.md. -/

namespace Sys2Proof.Proofs

open Sys2Proof.Machine

/-- Settles O11: a step is a Step or another transaction of the host, and each answers a next state (`step_eq_next`). -/
theorem everyStepAnswersANextState : Obligations.EveryStepAnswersANextState := by
  unfold Obligations.EveryStepAnswersANextState
  exact step_eq_next

/-- Settles O14: the reset state is what a Reset leaves of it, which meets the invariant (`resetBlock_inv`). -/
theorem invariantHoldsAtReset : Obligations.InvariantHoldsAtReset := by
  unfold Obligations.InvariantHoldsAtReset
  exact resetBlock_inv (s := State.reset) rfl

/-- Settles O27: the step leaves `State.resetBlock`, whose registers, stack entries, pixels and bytes are the reset ones. -/
theorem resetRestoresEverything : Obligations.ResetRestoresEverything := by
  unfold Obligations.ResetRestoresEverything
  intro s rest hp
  exact ⟨_, step_pending hp, State.reg_resetBlock _, rfl, rfl, fun _ _ => State.stack_resetBlock, rfl, rfl, rfl,
    Framebuffer.pixel_dark, rfl, fun _ => fontTable_getElem?_of_lt, fun _ ha _ => unlistedByte_of_le ha,
    rfl, rfl, rfl, rfl, rfl⟩

end Sys2Proof.Proofs
end
